-- ==== Sys2Proof/Word.lean ====
section
/-! DEFINITION. The word types: a timer register and a command word are 32 bits (20_memory.md R62, 30_encoding.md R81). -/

namespace Sys2Proof

/-- A command word, a timer register's value, a bus address or a READ result. -/
abbrev Word := BitVec 32

/-- One byte of a register's byte view (20_memory.md R63). -/
abbrev Byte := BitVec 8

end Sys2Proof
end

