-- ==== Sys2Proof/Config.lean ====
section
/-! DEFINITION. The implementation parameters of 00_scope.md R9 and the free values. The parameters are plain data that
State carries unchanged (log 15), so that every statement over a state holds at every setting of them. -/

namespace Sys2Proof

/-- CNT_WIDTH: the width of the timer's counter and reload registers (R9). -/
inductive CntWidth where
  | w16
  | w32
  deriving DecidableEq, Repr

/-- READ_WIDTH: 16, or the counter's own width (R9, 90_conflicts.md C3). -/
inductive ReadWidth where
  | u16
  | native
  deriving DecidableEq, Repr

/-- OTHER_BITS: what a write step does to bits of the register that it does not name (R9, 20_memory.md R64). -/
inductive OtherBits where
  | preserve
  | any
  deriving DecidableEq, Repr

/-- The parameters of 00_scope.md R9 that are neither fixed numbers nor initial register values. -/
structure Params where
  /-- TIMER_INSTANCE: which hardware timer the resource is bound to; no rule depends on it (92_eei_decisions.md D2). -/
  timerInstance : Nat
  /-- TIM_BASE: the bus address of that timer's register block. -/
  timBase : Word
  cntWidth : CntWidth
  readWidth : ReadWidth
  otherBits : OtherBits
  deriving DecidableEq, Repr

/-- The defaults of R9; where R9 leaves a parameter OPEN without a default, the 16-bit timer TIM3 of the STM32G4
family. PRESUMED, log 9. -/
def Params.default : Params where
  timerInstance := 3
  timBase := 0x40000400#32
  cntWidth := .w16
  readWidth := .u16
  otherBits := .preserve

/-- The spec's draws: free 32-bit values, one for each index, of which nothing is known (10_state.md R41). Log 7. -/
opaque Config.freeWord : Nat → Word

/-- The code write step W5 takes when no mode is latched: 10_state.md R39 calls such a read impossible and gives it no
value, so nothing is known of it. Log 11. -/
opaque Config.unlatchedMode : BitVec 4

end Sys2Proof
end

