-- ==== Sys2Proof/Syntax.lean ====
section
/-! DEFINITION. The two host commands of spec/opcode_table.json (30_encoding.md R80). The write steps W1 to W6 have no
command word (R96) and are no instructions: the sequencer makes them itself (Machine/Sequencer.lean). -/

namespace Sys2Proof

/-- A host command with its operands. -/
inductive Instr where
  /-- CONFIGURE mode, arr: accept the options and start the write sequence (40_configure.md R110). -/
  | configure (mode : BitVec 4) (arr : BitVec 16)
  /-- READ: return the live counter (41_read.md R140). -/
  | read
  deriving DecidableEq, Repr

end Sys2Proof
end

