-- ==== Sys2Proof/WellFormed.lean ====
section
/-! DEFINITION. Well-formed instructions and parameters. -/

namespace Sys2Proof

/-- Every mode and every reload value is a legal operand (30_encoding.md R86, R87; 60_exceptions.md R161): the operand
widths of `Instr` are the only condition, and they hold by type. -/
def Instr.wellFormed : Instr → Bool
  | .configure _ _ => true
  | .read => true

/-- The register block stands at a word-aligned address, so that every register access is aligned
(20_memory.md R62, R65). -/
def Params.wellFormed (p : Params) : Bool := p.timBase.toNat % 4 == 0

end Sys2Proof
end

