-- ==== Sys2Proof/Decode.lean ====
section
/-! DEFINITION. The decoder of command words, total on any 32-bit word (30_encoding.md R83), and the encoder from the
same field table (R81). A command is exactly one word (R85). -/

namespace Sys2Proof

/-- What a command word decodes to: a command, or a reserved word by name (R83, R84). -/
inductive Decoded where
  | command (i : Instr)
  | reserved (w : Word)
  deriving DecidableEq, Repr

/-- 30_encoding.md R83. -/
def decode (w : Word) : Decoded :=
  if w &&& 0xFFF00000#32 = 0x10000000#32 then
    .command (.configure (w.extractLsb' 16 4) (w.extractLsb' 0 16))
  else if w = 0x20000000#32 then
    .command .read
  else
    .reserved w

/-- The command word of an instruction: OP at [31:28], MODE at [19:16], ARR at [15:0], every other bit 0 (R81). -/
def encode : Instr → Word
  | .configure mode arr => (0b0001#32 <<< 28) ||| (mode.setWidth 32 <<< 16) ||| arr.setWidth 32
  | .read => 0b0010#32 <<< 28

/-- The match value of an instruction's row of the opcode table (R81). -/
def tableMatch : Instr → Word
  | .configure _ _ => 0x10000000#32
  | .read => 0x20000000#32

/-- The mask of an instruction's row of the opcode table (R81). -/
def tableMask : Instr → Word
  | .configure _ _ => 0xFFF00000#32
  | .read => 0xFFFFFFFF#32

/-- The instruction the decoder reads from the `nbits` low bits of `w`, every bit above them zero (log 24). -/
def decodeTableWord (nbits w : Nat) : Option Instr :=
  match decode (BitVec.ofNat 32 (w % 2 ^ nbits)) with
  | .command i => some i
  | .reserved _ => none

end Sys2Proof
end

