-- ==== Sys2Proof/Machine/SlaveMode.lean ====
section
/-! DEFINITION. The slave-mode code: its 16 variants, its split over two register fields and back, and the options value
with its defaults (30_encoding.md R86 to R89). Pure functions, independent of register access (R89). -/

namespace Sys2Proof.Machine

/-- The closed enumeration of slave modes (30_encoding.md R87). The source names only `encoderMode3`; the other names are
the spec's general knowledge (G3). PRESUMED, log 20. -/
inductive SlaveMode where
  | disable
  | encoderMode1
  | encoderMode2
  | encoderMode3
  | resetMode
  | gatedMode
  | triggerMode
  | externalClockMode1
  | combinedResetTrigger
  | combinedGatedReset
  | encoderClockPlusDirectionX2
  | encoderClockPlusDirectionX1
  | encoderDirectionalClockX2
  | encoderDirectionalClockX1
  | quadratureEncoderX1TI1
  | quadratureEncoderX1TI2
  deriving DecidableEq, Repr

/-- All variants in the order of their codes (R87). -/
def slaveModes : List SlaveMode :=
  [.disable, .encoderMode1, .encoderMode2, .encoderMode3, .resetMode, .gatedMode, .triggerMode, .externalClockMode1,
   .combinedResetTrigger, .combinedGatedReset, .encoderClockPlusDirectionX2, .encoderClockPlusDirectionX1,
   .encoderDirectionalClockX2, .encoderDirectionalClockX1, .quadratureEncoderX1TI1, .quadratureEncoderX1TI2]

/-- The fixed 4-bit code of a variant (R87). -/
def SlaveMode.code : SlaveMode → BitVec 4
  | .disable => 0x0
  | .encoderMode1 => 0x1
  | .encoderMode2 => 0x2
  | .encoderMode3 => 0x3
  | .resetMode => 0x4
  | .gatedMode => 0x5
  | .triggerMode => 0x6
  | .externalClockMode1 => 0x7
  | .combinedResetTrigger => 0x8
  | .combinedGatedReset => 0x9
  | .encoderClockPlusDirectionX2 => 0xA
  | .encoderClockPlusDirectionX1 => 0xB
  | .encoderDirectionalClockX2 => 0xC
  | .encoderDirectionalClockX1 => 0xD
  | .quadratureEncoderX1TI1 => 0xE
  | .quadratureEncoderX1TI2 => 0xF

/-- The variant a code names: every 4-bit value names exactly one (R87). -/
def slaveModeOf (c : BitVec 4) : SlaveMode := slaveModes.getD c.toNat .disable

/-- The value of the primary field SMS_LO for a code (R88). -/
def splitLo (c : BitVec 4) : BitVec 3 := (c &&& 0x7#4).setWidth 3

/-- The value of the extension field SMS_HI for a code (R88). -/
def splitHi (c : BitVec 4) : BitVec 1 := BitVec.ofBool (c &&& 0x8#4 != 0#4)

/-- The code two field values are read back as, `{hi, lo}` (R89). -/
def joinCode (hi : BitVec 1) (lo : BitVec 3) : BitVec 4 := hi ++ lo

/-- The options value (R86). -/
structure QeiOptions where
  slaveMode : SlaveMode
  autoReloadValue : BitVec 16
  deriving DecidableEq, Repr

/-- The default options: EncoderMode3 and the largest reload value (R86, 90_conflicts.md C1). -/
def defaultOptions : QeiOptions where
  slaveMode := .encoderMode3
  autoReloadValue := 0xFFFF#16

/-- The CONFIGURE command that carries an options value (R80, R86). -/
def optionsCommand (o : QeiOptions) : Instr := .configure o.slaveMode.code o.autoReloadValue

end Sys2Proof.Machine
end

