-- ==== Sys2Proof/Machine/State.lean ====
section
/-! DEFINITION. The state of the machine as plain data: the sequencer's own state and the timer registers of 10_state.md,
the launch premises of 70_reset_and_hazards.md R196, the host interface, the parameters, and the model's own list of
turns and draw counter. -/

namespace Sys2Proof.Machine

/-- The six timer registers the block reaches (10_state.md R29). -/
inductive Reg where
  | cr1
  | smcr
  | ccmr1
  | ccer
  | cnt
  | arr
  deriving DecidableEq, Repr

/-- The register fields the write steps write (10_state.md R30 to R35). -/
inductive Field where
  | cen
  | smsLo
  | smsHi
  | cc1s
  | cc2s
  | cc1p
  | cc1np
  | cc2p
  | cc2np
  deriving DecidableEq, Repr

/-- `seq.phase`, the sequencer's program counter (10_state.md R22). -/
inductive Phase where
  | notConfigured
  | seq1
  | seq2
  | seq3
  | seq4
  | seq5
  | seq6
  | counting
  deriving DecidableEq, Repr

/-- The six write steps of the sequence (40_configure.md R112 to R117). -/
inductive WriteStep where
  | w1
  | w2
  | w3
  | w4
  | w5
  | w6
  deriving DecidableEq, Repr

/-- The reasons of a refusal (60_exceptions.md R163). A refusal is a next state with the refusal mark set (log 5). -/
inductive RefuseReason where
  | reservedWord
  | configureNotIdle
  | premiseViolated
  | noHandle
  | misaligned
  deriving DecidableEq, Repr

/-- A step of the counter agent (60_exceptions.md R167). -/
inductive CountDir where
  | up
  | down
  deriving DecidableEq, Repr

/-- One entry of `seq.log`: the register written and the fields with the values the step gave them
(10_state.md R26, 40_configure.md R122). -/
structure LogEntry where
  reg : Reg
  fields : List (Field × Word)
  deriving DecidableEq, Repr

/-- Who moves next (60_exceptions.md R172). Log 1. -/
inductive Turn where
  /-- Host context `ctx` issues the command word `word`. -/
  | host (ctx : Nat) (word : Word)
  /-- The sequencer takes its next write step. -/
  | sequencer
  /-- The counter agent counts. -/
  | count (dir : CountDir)
  /-- The whole platform is reset (70_reset_and_hazards.md R191). -/
  | platformReset
  deriving DecidableEq, Repr

/-- A value READ returned on the response channel, and the host context it answers (30_encoding.md R82). -/
structure Response where
  ctx : Nat
  value : Word
  deriving DecidableEq, Repr

/-- The sequencer's own state (10_state.md R22 to R26, R41). -/
structure Sequencer where
  phase : Phase
  /-- The slave-mode code latched by CONFIGURE; no value before that (R23, R39). -/
  mode : Option (BitVec 4)
  /-- The reload option latched by CONFIGURE, read by no rule; no value before that (R24, R39). -/
  arr : Option (BitVec 16)
  /-- The sticky refusal mark (R25). -/
  refused : Bool
  /-- The register writes issued, oldest first (R26). -/
  log : List LogEntry
  deriving DecidableEq, Repr

/-- The timer registers the block reads or writes, as 32-bit values (00_scope.md R11; 10_state.md R29). -/
structure Timer where
  cr1 : Word
  smcr : Word
  ccmr1 : Word
  ccer : Word
  cnt : Word
  arr : Word
  deriving DecidableEq, Repr

/-- The launch premises P1, P2 and P4 of 70_reset_and_hazards.md R196; P3 is read from CR1. -/
structure Premises where
  timerBound : Bool
  pinsCompatible : Bool
  exclusive : Bool
  deriving DecidableEq, Repr

/-- The machine. -/
structure State where
  /-- The parameters of 00_scope.md R9, the same through every run. -/
  params : Params
  seq : Sequencer
  tim : Timer
  premises : Premises
  /-- The host context that waits for its own CONFIGURE to end (40_configure.md R119). -/
  waiting : Option Nat
  /-- The host context whose command is being executed. -/
  caller : Nat
  /-- The response channel, oldest first (30_encoding.md R82). -/
  responses : List Response
  /-- The refusal reasons reported since reset, oldest first (60_exceptions.md R163, R166). -/
  reasons : List RefuseReason
  /-- The model's own: who moves next, and after that (log 1). -/
  schedule : List Turn
  /-- The model's own: the index of the next draw (log 7). -/
  draws : Nat
  deriving DecidableEq, Repr

/-- The block has no fault outcome (00_scope.md R12) and raises no exception, trap or error (60_exceptions.md R160). So
there is no constructor: nothing raises a fault. -/
inductive Fault where
  deriving DecidableEq, Repr

/-- The refusals of the interface. The spec's own refusals (R163) are none of these: they are next states. -/
inductive Refusal where
  /-- Raised by an arm of `exec` whose instruction has no meaning yet; no arm raises it. Safe. -/
  | notModelled (mnemonic : String)
  deriving DecidableEq, Repr

/-- The sequencer right after reset (10_state.md R39). -/
def Sequencer.reset : Sequencer where
  phase := .notConfigured
  mode := none
  arr := none
  refused := false
  log := []

/-- The timer registers at the family's reset values, which 10_state.md R40 gives for information. PRESUMED, log 8. -/
def Timer.family : Timer where
  cr1 := 0
  smcr := 0
  ccmr1 := 0
  ccer := 0
  cnt := 0
  arr := 0x0000FFFF#32

/-- Every launch premise holds. DESIGN CHOICE as a reset value, log 10. -/
def Premises.hold : Premises where
  timerBound := true
  pinsCompatible := true
  exclusive := true

/-- The state at reset of the block for given parameters, premises and timer contents, which the spec leaves open
(00_scope.md R9, 10_state.md R40). -/
def State.launch (p : Params) (pr : Premises) (t : Timer) : State where
  params := p
  seq := .reset
  tim := t
  premises := pr
  waiting := none
  caller := 0
  responses := []
  reasons := []
  schedule := []
  draws := 0

/-- The machine right after reset (70_reset_and_hazards.md R190). -/
def State.reset : State := State.launch Params.default Premises.hold Timer.family

end Sys2Proof.Machine
end

