-- ==== Sys2Proof/Machine/Operands.lean ====
section
/-! DEFINITION. The register map and the fields (30_encoding.md R92), the placing of field values under their masks (R96),
the six write steps as a table (R93 to R96), and the fixed order of the phases (10_state.md R22). Offsets and bit
positions are the spec's general knowledge (G1, log 14). -/

namespace Sys2Proof.Machine

/-- Offset of a register from TIM_BASE (R92). -/
def Reg.offset : Reg → Word
  | .cr1 => 0x00#32
  | .smcr => 0x08#32
  | .ccmr1 => 0x18#32
  | .ccer => 0x20#32
  | .cnt => 0x24#32
  | .arr => 0x2C#32

/-- Every register the block knows (R92). -/
def allRegs : List Reg := [.cr1, .smcr, .ccmr1, .ccer, .cnt, .arr]

/-- Lowest bit of a field (R92). -/
def Field.lsb : Field → Nat
  | .cen => 0
  | .smsLo => 0
  | .smsHi => 16
  | .cc1s => 0
  | .cc2s => 8
  | .cc1p => 1
  | .cc1np => 3
  | .cc2p => 5
  | .cc2np => 7

/-- Width of a field in bits (R92). -/
def Field.width : Field → Nat
  | .cen => 1
  | .smsLo => 3
  | .smsHi => 1
  | .cc1s => 2
  | .cc2s => 2
  | .cc1p => 1
  | .cc1np => 1
  | .cc2p => 1
  | .cc2np => 1

/-- The register a field belongs to (R92). -/
def Field.reg : Field → Reg
  | .cen => .cr1
  | .smsLo => .smcr
  | .smsHi => .smcr
  | .cc1s => .ccmr1
  | .cc2s => .ccmr1
  | .cc1p => .ccer
  | .cc1np => .ccer
  | .cc2p => .ccer
  | .cc2np => .ccer

/-- Mask of a field within its register (R92). -/
def Field.mask (f : Field) : Word := BitVec.ofNat 32 ((2 ^ f.width - 1) * 2 ^ f.lsb)

/-- `TIM.R.F`: the value of a field of a register's value, right-aligned (00_scope.md R11). -/
def getField (f : Field) (w : Word) : Word := (w &&& f.mask) >>> f.lsb

/-- The union of the masks of the fields a step writes (20_memory.md R64). -/
def maskOf : List (Field × Word) → Word
  | [] => 0
  | (f, _) :: rest => f.mask ||| maskOf rest

/-- The field values of a step, each placed under its own mask (20_memory.md R64, 30_encoding.md R96). -/
def valueOf : List (Field × Word) → Word
  | [] => 0
  | (f, v) :: rest => ((v <<< f.lsb) &&& f.mask) ||| valueOf rest

/-- The input-select value "direct input" (30_encoding.md R93). -/
def direct : Word := 0b01#32

/-- The register a write step writes (30_encoding.md R96). -/
def WriteStep.reg : WriteStep → Reg
  | .w1 => .ccmr1
  | .w2 => .ccmr1
  | .w3 => .ccer
  | .w4 => .ccer
  | .w5 => .smcr
  | .w6 => .cr1

/-- The fields a write step writes with their values, for the latched mode code `c` (40_configure.md R112 to R117). -/
def WriteStep.fields (c : BitVec 4) : WriteStep → List (Field × Word)
  | .w1 => [(.cc1s, direct)]
  | .w2 => [(.cc2s, direct)]
  | .w3 => [(.cc1p, 0), (.cc1np, 0)]
  | .w4 => [(.cc2p, 0), (.cc2np, 0)]
  | .w5 => [(.smsLo, (splitLo c).setWidth 32), (.smsHi, (splitHi c).setWidth 32)]
  | .w6 => [(.cen, 1)]

/-- The write steps before a step in the sequence, in order (40_configure.md R111). -/
def WriteStep.earlier : WriteStep → List WriteStep
  | .w1 => []
  | .w2 => [.w1]
  | .w3 => [.w1, .w2]
  | .w4 => [.w1, .w2, .w3]
  | .w5 => [.w1, .w2, .w3, .w4]
  | .w6 => [.w1, .w2, .w3, .w4, .w5]

/-- The mask K of 20_memory.md R64: the fields of the step's register that earlier steps of the sequence wrote. -/
def WriteStep.keptMask (k : WriteStep) : Word :=
  (k.earlier.filter (fun j => j.reg == k.reg)).foldr (fun j m => maskOf (j.fields 0) ||| m) 0

/-- The phase a write step ends in (40_configure.md R111, R121). -/
def WriteStep.next : WriteStep → Phase
  | .w1 => .seq2
  | .w2 => .seq3
  | .w3 => .seq4
  | .w4 => .seq5
  | .w5 => .seq6
  | .w6 => .counting

/-- The write step a phase waits to take, if it is one of SEQ1 to SEQ6 (10_state.md R22). -/
def Phase.pending : Phase → Option WriteStep
  | .notConfigured => none
  | .seq1 => some .w1
  | .seq2 => some .w2
  | .seq3 => some .w3
  | .seq4 => some .w4
  | .seq5 => some .w5
  | .seq6 => some .w6
  | .counting => none

/-- The 3-bit encoding of a phase (10_state.md R22). -/
def Phase.code : Phase → BitVec 3
  | .notConfigured => 0
  | .seq1 => 1
  | .seq2 => 2
  | .seq3 => 3
  | .seq4 => 4
  | .seq5 => 5
  | .seq6 => 6
  | .counting => 7

/-- The write steps already taken when a phase is reached, in order (40_configure.md R121). -/
def Phase.done : Phase → List WriteStep
  | .notConfigured => []
  | .seq1 => []
  | .seq2 => [.w1]
  | .seq3 => [.w1, .w2]
  | .seq4 => [.w1, .w2, .w3]
  | .seq5 => [.w1, .w2, .w3, .w4]
  | .seq6 => [.w1, .w2, .w3, .w4, .w5]
  | .counting => [.w1, .w2, .w3, .w4, .w5, .w6]

/-- The log entry of a write step (40_configure.md R122). -/
def WriteStep.entry (c : BitVec 4) (k : WriteStep) : LogEntry := ⟨k.reg, k.fields c⟩

/-- The slave-mode code the timer sees in a value of SMCR, `{SMS_HI, SMS_LO}` (10_state.md R34). -/
def codeSeen (smcr : Word) : BitVec 4 :=
  joinCode ((getField .smsHi smcr).setWidth 1) ((getField .smsLo smcr).setWidth 3)

/-- The mask of the counter field and of the reload field (30_encoding.md R92). -/
def cntMask (p : Params) : Word :=
  match p.cntWidth with
  | .w16 => 0x0000FFFF#32
  | .w32 => 0xFFFFFFFF#32

/-- READ's result from the value of the CNT register: `zext_32(w[READ_WIDTH-1:0])` (41_read.md R140, R142). -/
def readResult (p : Params) (w : Word) : Word :=
  match p.readWidth, p.cntWidth with
  | .u16, _ => (w.setWidth 16).setWidth 32
  | .native, .w16 => (w.setWidth 16).setWidth 32
  | .native, .w32 => w

/-- The value a field write leaves in a register (20_memory.md R64, 30_encoding.md R96): `m` the mask and `v` the placed
value of the fields written, `kept` the mask K, `d` the draw. -/
def mergeBits (ob : OtherBits) (d old m kept v : Word) : Word :=
  match ob with
  | .preserve => (old &&& ~~~m) ||| (v &&& m)
  | .any => (d &&& ~~~(m ||| kept)) ||| (old &&& kept) ||| (v &&& m)

end Sys2Proof.Machine
end

