-- ==== Sys2Proof/Machine/Ops.lean ====
section
/-! DEFINITION. The named operations over the state: register access, the refusal (the spec's only way to turn a command
away: it has no exception to take, 60_exceptions.md R160, R164), draws, the field write, the response channel, the launch
premises, the counter field, and the platform reset. -/

namespace Sys2Proof.Machine

/-- A register access or a field write: done, or stopped by the reason the access is refused for. -/
inductive Access (α : Type) where
  | done (a : α)
  | stop (e : RefuseReason)
  deriving DecidableEq, Repr

/-- `TIM.R` (00_scope.md R11). -/
def Timer.get (t : Timer) : Reg → Word
  | .cr1 => t.cr1
  | .smcr => t.smcr
  | .ccmr1 => t.ccmr1
  | .ccer => t.ccer
  | .cnt => t.cnt
  | .arr => t.arr

/-- The timer with register `r` holding `v`. -/
def Timer.set (t : Timer) (r : Reg) (v : Word) : Timer :=
  match r with
  | .cr1 => { t with cr1 := v }
  | .smcr => { t with smcr := v }
  | .ccmr1 => { t with ccmr1 := v }
  | .ccer => { t with ccer := v }
  | .cnt => { t with cnt := v }
  | .arr => { t with arr := v }

/-- The bus address of a register, `TIM_BASE + offset` (20_memory.md R60). -/
def busAddr (p : Params) (r : Reg) : Word := p.timBase + r.offset

/-- A register access at this address is word-aligned (20_memory.md R65). -/
def isAligned (a : Word) : Bool := a.toNat % 4 == 0

/-- `MemRead(TIM_BASE + off, 4)` (20_memory.md R62, R65). A read has no side effect (R68). -/
def memRead (r : Reg) (s : State) : Access Word :=
  if isAligned (busAddr s.params r) then .done (s.tim.get r) else .stop .misaligned

/-- `MemWrite(TIM_BASE + off, 4, v)` (20_memory.md R62, R65). -/
def memWrite (r : Reg) (v : Word) (s : State) : Access State :=
  if isAligned (busAddr s.params r) then .done { s with tim := s.tim.set r v } else .stop .misaligned

/-- Byte `i` of a register's value: bits `[8i+7 : 8i]` (20_memory.md R63). -/
def byteOf (w : Word) (i : Nat) : Byte := w.extractLsb' (8 * i) 8

/-- The byte at a bus address, if it is one of the 24 bytes of the six registers; any other address belongs to the
platform (20_memory.md R63, R69). Log 21. -/
def busByte (s : State) (a : Word) : Option Byte :=
  (allRegs.find? (fun r => (a - busAddr s.params r).toNat < 4)).map
    (fun r => byteOf (s.tim.get r) (a - busAddr s.params r).toNat)

/-- `refuse(reason)`: sets the sticky mark, reports the reason, changes nothing else (60_exceptions.md R163; log 5). -/
def refuse (e : RefuseReason) (s : State) : State :=
  { s with seq := { s.seq with refused := true }, reasons := s.reasons ++ [e] }

/-- Take the next draw away, so that it is drawn once only (log 7). -/
def skipDraws (n : Nat) (s : State) : State := { s with draws := s.draws + n }

/-- Append a value for the calling context to the response channel (30_encoding.md R82). -/
def respond (v : Word) (s : State) : State := { s with responses := s.responses ++ [⟨s.caller, v⟩] }

/-- Append an entry to `seq.log` (20_memory.md R64). -/
def logWrite (e : LogEntry) (s : State) : State := { s with seq := { s.seq with log := s.seq.log ++ [e] } }

/-- Under `OTHER_BITS = ANY` a field write uses up one draw (20_memory.md R64). -/
def drawsOfWrite (p : Params) : Nat :=
  match p.otherBits with
  | .preserve => 0
  | .any => 1

/-- The field write of 20_memory.md R64: read the register, merge, write it back, log. One indivisible step (R66). -/
def fieldWrite (r : Reg) (kept : Word) (fs : List (Field × Word)) (s : State) : Access State :=
  match memRead r s with
  | .stop e => .stop e
  | .done old =>
    match memWrite r (mergeBits s.params.otherBits (Config.freeWord s.draws) old (maskOf fs) kept (valueOf fs)) s with
    | .stop e => .stop e
    | .done t => .done (logWrite ⟨r, fs⟩ (skipDraws (drawsOfWrite s.params) t))

/-- `TIM.CR1.CEN` (10_state.md R35). -/
def cen (s : State) : Bool := getField .cen s.tim.cr1 == 1#32

/-- `launch_premises_hold()`: P1, P2, P3 (CEN = 0) and P4 (70_reset_and_hazards.md R196). -/
def launchPremisesHold (s : State) : Bool :=
  s.premises.timerBound && s.premises.pinsCompatible && !cen s && s.premises.exclusive

/-- The counter's value, the field of CNT_WIDTH bits (10_state.md R36, 30_encoding.md R92). -/
def countOf (s : State) : Word := s.tim.cnt &&& cntMask s.params

/-- The wrap boundary, the field of CNT_WIDTH bits of ARR (10_state.md R37, 30_encoding.md R92). -/
def reloadOf (s : State) : Word := s.tim.arr &&& cntMask s.params

/-- Write the counter field of CNT; only the counter agent does (10_state.md R36). -/
def setCount (v : Word) (s : State) : State :=
  { s with tim := { s.tim with cnt := (s.tim.cnt &&& ~~~cntMask s.params) ||| (v &&& cntMask s.params) } }

/-- The latched slave-mode code; where none is latched a free value (10_state.md R23, R39; log 11). -/
def latchedCode (s : State) : BitVec 4 := s.seq.mode.getD Config.unlatchedMode

/-- The timer registers after a platform reset: every one a draw, since the spec leaves their reset values unspecified
(10_state.md R40, 70_reset_and_hazards.md R191); `n` is the first draw used. -/
def drawnTimer (p : Params) (n : Nat) : Timer where
  cr1 := Config.freeWord n
  smcr := Config.freeWord (n + 1)
  ccmr1 := Config.freeWord (n + 2)
  ccer := Config.freeWord (n + 3)
  cnt := Config.freeWord (n + 4) &&& cntMask p
  arr := Config.freeWord (n + 5) &&& cntMask p

/-- The launch premises after a platform reset, of which the spec says nothing: a draw (log 12). -/
def drawnPremises (n : Nat) : Premises where
  timerBound := (Config.freeWord n).getLsbD 0
  pinsCompatible := (Config.freeWord n).getLsbD 1
  exclusive := (Config.freeWord n).getLsbD 2

/-- A reset of the whole platform: the sequencer as at reset, the timer and the premises drawn
(70_reset_and_hazards.md R190, R191; log 12). -/
def platformReset (s : State) : State :=
  { s with
    seq := .reset
    tim := drawnTimer s.params s.draws
    premises := drawnPremises (s.draws + 6)
    waiting := none
    reasons := []
    draws := s.draws + 7 }

end Sys2Proof.Machine
end

