-- ==== Sys2Proof/Machine/Counter.lean ====
section
/-! DEFINITION. The counter agent (60_exceptions.md R167 to R169). -/

namespace Sys2Proof.Machine

/-- The counter's value after one count with wrap boundary `t`, for a value not above it (60_exceptions.md R168). -/
def countedValue (dir : CountDir) (t c : Word) : Word :=
  match dir with
  | .up => if c = t then 0 else c + 1
  | .down => if c = 0 then t else c - 1

/-- A `COUNT up` or `COUNT down` step: no step while CEN = 0 (R167); wrap at ARR (R168); above ARR a draw (R169). -/
def countStep (dir : CountDir) (s : State) : State :=
  if cen s then
    if (countOf s).toNat ≤ (reloadOf s).toNat then
      setCount (countedValue dir (reloadOf s) (countOf s)) s
    else
      skipDraws 1 (setCount (Config.freeWord s.draws) s)
  else
    s

/-- The counter agent left to itself: whether it counts, and which way, is a draw (60_exceptions.md R167; log 2). -/
def freeCount (s : State) : State :=
  if (Config.freeWord s.draws).getLsbD 0 then
    countStep (if (Config.freeWord s.draws).getLsbD 1 then .up else .down) (skipDraws 1 s)
  else
    skipDraws 1 s

end Sys2Proof.Machine
end

