-- ==== Sys2Proof/Machine/Configure.lean ====
section
/-! DEFINITION. CONFIGURE, the command (40_configure.md R110). The write sequence it starts is the sequencer's
(Machine/Sequencer.lean). -/

namespace Sys2Proof.Machine

/-- Latch the options and enter SEQ1; the calling context then waits for the sequence to end (R110, R119). Writes no
timer register. -/
def acceptOptions (mode : BitVec 4) (arr : BitVec 16) (s : State) : State :=
  { s with
    seq := { s.seq with mode := some mode, arr := some arr, phase := .seq1 }
    waiting := some s.caller }

/-- CONFIGURE (40_configure.md R110): the phase check before the premises (60_exceptions.md R166). -/
def execConfigure (mode : BitVec 4) (arr : BitVec 16) (s : State) : Host.Outcome State Fault Refusal :=
  if s.seq.phase = .notConfigured then
    if launchPremisesHold s then .next (acceptOptions mode arr s) else .next (refuse .premiseViolated s)
  else
    .next (refuse .configureNotIdle s)

end Sys2Proof.Machine
end

