-- ==== Sys2Proof/Machine/Read.lean ====
section
/-! DEFINITION. READ, the command (41_read.md R140 to R145). -/

namespace Sys2Proof.Machine

/-- READ: in COUNTING one atomic read of CNT, its low READ_WIDTH bits returned zero-extended (R140, R142); in any other
phase refused with NO_HANDLE (R145). No side effect (R141). -/
def execRead (s : State) : Host.Outcome State Fault Refusal :=
  if s.seq.phase = .counting then
    match memRead .cnt s with
    | .done w => .next (respond (readResult s.params w) s)
    | .stop e => .next (refuse e s)
  else
    .next (refuse .noHandle s)

end Sys2Proof.Machine
end

