-- ==== Sys2Proof/Machine/Dispatch.lean ====
section
/-! DEFINITION. One arm per command. -/

namespace Sys2Proof.Machine

def exec (i : Instr) (s : State) : Host.Outcome State Fault Refusal :=
  match i with
  | .configure mode arr => Sys2Proof.Machine.execConfigure mode arr s
  | .read => Sys2Proof.Machine.execRead s

end Sys2Proof.Machine
end

