-- ==== Sys2Proof/Machine/Sequencer.lean ====
section
/-! DEFINITION. The sequencer's own steps: write steps W1 to W6 (40_configure.md R111 to R117). -/

namespace Sys2Proof.Machine

/-- The phase after a write step; after W6 the context that issued CONFIGURE goes on (40_configure.md R111, R119). -/
def finishStep (k : WriteStep) (s : State) : State :=
  { s with
    seq := { s.seq with phase := k.next }
    waiting := if k.next = .counting then none else s.waiting }

/-- Write step `k`: the field write of its row, then the phase (40_configure.md R112 to R117). -/
def writeStep (k : WriteStep) (s : State) : Access State :=
  match fieldWrite k.reg k.keptMask (k.fields (latchedCode s)) s with
  | .done t => .done (finishStep k t)
  | .stop e => .stop e

/-- The sequencer's step: the pending write step, or no step where none is enabled (40_configure.md R111; 00_scope.md
R12). An access that is refused ends the step with no other change (00_scope.md R11; log 26). -/
def sequencerStep (s : State) : State :=
  match s.seq.phase.pending with
  | none => s
  | some k =>
    match writeStep k s with
    | .done t => t
    | .stop e => refuse e s

end Sys2Proof.Machine
end

