-- ==== Sys2Proof/Machine/Scheduler.lean ====
section
/-! DEFINITION. Which agent moves: the agents step one at a time, in any order their enabling conditions allow
(60_exceptions.md R172). The order is the list `schedule` of State (log 1). -/

namespace Sys2Proof.Machine

/-- The phase is one of SEQ1 to SEQ6: the sequencer is enabled (40_configure.md R111). -/
def inSequence (s : State) : Bool := s.seq.phase.pending.isSome

/-- A host context that issued the CONFIGURE in progress has no next step until COUNTING (40_configure.md R119). -/
def isBlocked (ctx : Nat) (s : State) : Bool := inSequence s && s.waiting == some ctx

/-- The first turn of the schedule is taken; `rest` remain. -/
def takeTurn (rest : List Turn) (s : State) : State := { s with schedule := rest }

/-- The turn of a host context is taken: it becomes the caller of the command it issues. -/
def takeCommand (ctx : Nat) (rest : List Turn) (s : State) : State := { s with schedule := rest, caller := ctx }

/-- A host command: a reserved word is refused before any other check, a command is executed (60_exceptions.md R166). -/
def hostCommand (w : Word) (s : State) : Host.Outcome State Fault Refusal :=
  match decode w with
  | .command i => exec i s
  | .reserved _ => .next (refuse .reservedWord s)

/-- No turn is scheduled: an enabled sequencer moves (weak fairness, 70_reset_and_hazards.md R205); else an enabled
counter is left to itself (60_exceptions.md R167); else nothing moves. Log 2. -/
def idleStep (s : State) : State :=
  if inSequence s then sequencerStep s
  else if cen s then freeCount s
  else s

/-- One step of the machine. A blocked context's command stays first in the list while the sequencer moves (log 4). -/
def advance (s : State) : Host.Outcome State Fault Refusal :=
  match s.schedule with
  | [] => .next (idleStep s)
  | .host ctx w :: rest =>
    if isBlocked ctx s then .next (sequencerStep s) else hostCommand w (takeCommand ctx rest s)
  | .sequencer :: rest => .next (sequencerStep (takeTurn rest s))
  | .count dir :: rest => .next (countStep dir (takeTurn rest s))
  | .platformReset :: rest => .next (platformReset (takeTurn rest s))

/-- A host context that is not blocked (log 25). -/
def freeContext (s : State) : Nat :=
  match s.waiting with
  | some c => c + 1
  | none => 0

/-- The command of `nbits` bits `w` is issued next, by a context that is not blocked (log 25). -/
def issueNext (nbits w : Nat) (s : State) : State :=
  { s with schedule := .host (freeContext s) (BitVec.ofNat 32 (w % 2 ^ nbits)) :: s.schedule }

end Sys2Proof.Machine
end

