-- ==== Sys2Proof/Machine/Step.lean ====
section
/-! DEFINITION. The step function. -/

namespace Sys2Proof.Machine

/-- One step: the next turn of the schedule, or what moves when none is scheduled (60_exceptions.md R172). -/
def step (s : State) : Host.Outcome State Fault Refusal := Sys2Proof.Machine.advance s

/-- The state with a command word issued next. The block fetches no program (20_memory.md R73): commands come from the
host, so this stands for the host issuing one (log 1, log 25). -/
def State.withFetchWord (s : State) (nbits w : Nat) : State := Sys2Proof.Machine.issueNext nbits w s

end Sys2Proof.Machine
end

