-- ==== Sys2Proof/Machine/Assembler.lean ====
section
/-! DEFINITION. The assembly text of host programs (30_encoding.md R97, R98) and the turns a program stands for. Text is
a list of characters, so that the kernel evaluates the reader. The text form is the spec's own; its details are in
log 19. -/

namespace Sys2Proof.Machine

/-- One line of a program: a command, or a mark of a counter step the schedule takes at that point (R97). -/
inductive AsmLine where
  /-- CONFIGURE with the operands written; an omitted one takes its default. -/
  | configure (mode : Option (BitVec 4)) (arr : Option (BitVec 16))
  /-- READ into a host variable; no characters where the operand is omitted. DESIGN CHOICE, log 28. -/
  | read (dst : List Char)
  /-- COUNT up or COUNT down: no command of the block. -/
  | count (dir : CountDir)
  deriving DecidableEq, Repr

/-- CONFIGURE.DEFAULT (R98). -/
def configureDefault : AsmLine := .configure none none

/-- The command of a CONFIGURE line: omitted operands take the default options (R86, R97). -/
def asmConfigure (mode : Option (BitVec 4)) (arr : Option (BitVec 16)) : Instr :=
  .configure (mode.getD defaultOptions.slaveMode.code) (arr.getD defaultOptions.autoReloadValue)

/-- The turn a line stands for, issued by host context `ctx`. -/
def asmTurn (ctx : Nat) : AsmLine → Turn
  | .configure mode arr => .host ctx (encode (asmConfigure mode arr))
  | .read _ => .host ctx (encode .read)
  | .count dir => .count dir

/-- Drop a comment: everything from `;` on (R97). -/
def dropComment : List Char → List Char
  | [] => []
  | c :: cs => if c = ';' then [] else c :: dropComment cs

/-- A character that separates words: white space, or the comma between operands. -/
def isSeparator (c : Char) : Bool := c = ' ' || c = '\t' || c = ','

/-- The words of a line; `word` is the word being read, last character first. -/
def splitWords (word : List Char) : List Char → List (List Char)
  | [] => if word.isEmpty then [] else [word.reverse]
  | c :: cs =>
    if isSeparator c then
      (if word.isEmpty then splitWords [] cs else word.reverse :: splitWords [] cs)
    else splitWords (c :: word) cs

/-- The value of a digit in a base up to 16. -/
def digitValue (base : Nat) (c : Char) : Option Nat :=
  let n := c.toNat
  let d := if 48 ≤ n ∧ n ≤ 57 then n - 48 else if 65 ≤ n ∧ n ≤ 70 then n - 55 else if 97 ≤ n ∧ n ≤ 102 then n - 87 else 16
  if d < base then some d else none

/-- The number a list of digits stands for, `acc` read so far. -/
def digitsValue (base acc : Nat) : List Char → Option Nat
  | [] => some acc
  | c :: cs =>
    match digitValue base c with
    | some d => digitsValue base (acc * base + d) cs
    | none => none

/-- A number: decimal, or hexadecimal after `0x` (00_scope.md R10). -/
def numberOf : List Char → Option Nat
  | [] => none
  | ['0', 'x'] => none
  | '0' :: 'x' :: ds => digitsValue 16 0 ds
  | ds => digitsValue 10 0 ds

/-- The name of a slave mode in program text (R87, R97). -/
def SlaveMode.name : SlaveMode → String
  | .disable => "Disable"
  | .encoderMode1 => "EncoderMode1"
  | .encoderMode2 => "EncoderMode2"
  | .encoderMode3 => "EncoderMode3"
  | .resetMode => "ResetMode"
  | .gatedMode => "GatedMode"
  | .triggerMode => "TriggerMode"
  | .externalClockMode1 => "ExternalClockMode1"
  | .combinedResetTrigger => "CombinedResetTrigger"
  | .combinedGatedReset => "CombinedGatedReset"
  | .encoderClockPlusDirectionX2 => "EncoderClockPlusDirectionX2"
  | .encoderClockPlusDirectionX1 => "EncoderClockPlusDirectionX1"
  | .encoderDirectionalClockX2 => "EncoderDirectionalClockX2"
  | .encoderDirectionalClockX1 => "EncoderDirectionalClockX1"
  | .quadratureEncoderX1TI1 => "QuadratureEncoderX1TI1"
  | .quadratureEncoderX1TI2 => "QuadratureEncoderX1TI2"

/-- A mode operand: a number 0 to 15 or a name (R97). -/
def modeOf (cs : List Char) : Option (BitVec 4) :=
  match numberOf cs with
  | some n => if n < 16 then some (BitVec.ofNat 4 n) else none
  | none => (slaveModes.find? (fun m => m.name.toList == cs)).map SlaveMode.code

/-- A reload operand: a number 0 to 65535 (R97). -/
def reloadOperand (cs : List Char) : Option (BitVec 16) :=
  match numberOf cs with
  | some n => if n < 65536 then some (BitVec.ofNat 16 n) else none
  | none => none

/-- The operands of a CONFIGURE line: `mode=` and `arr=`, each at most once, the mode first (R97). -/
def configureOperands : List (List Char) → Option AsmLine
  | [] => some configureDefault
  | [('m' :: 'o' :: 'd' :: 'e' :: '=' :: m)] => (modeOf m).map (fun c => .configure (some c) none)
  | [('a' :: 'r' :: 'r' :: '=' :: a)] => (reloadOperand a).map (fun v => .configure none (some v))
  | [('m' :: 'o' :: 'd' :: 'e' :: '=' :: m), ('a' :: 'r' :: 'r' :: '=' :: a)] =>
    match modeOf m, reloadOperand a with
    | some c, some v => some (.configure (some c) (some v))
    | _, _ => none
  | _ => none

/-- A line from its words; `none` where the text is no line of R97. That READ's `<dst>` may be omitted too is the model's
choice: R97 says that operands may be omitted and shows this of CONFIGURE only. DESIGN CHOICE, log 28. -/
def lineOf : List (List Char) → Option AsmLine
  | [] => none
  | head :: operands =>
    if head = "CONFIGURE".toList then configureOperands operands
    else if head = "CONFIGURE.DEFAULT".toList then (if operands = [] then some configureDefault else none)
    else if head = "READ".toList then
      match operands with
      | [] => some (.read [])
      | [dst] => some (.read dst)
      | _ => none
    else if head = "COUNT".toList then
      if operands = ["up".toList] then some (.count .up)
      else if operands = ["down".toList] then some (.count .down)
      else none
    else none

/-- Read one line of program text (R97, R98). -/
def parseLine (text : List Char) : Option AsmLine := lineOf (splitWords [] (dropComment text))

/-- Read a program, one line of text each; a line of white space or comment alone stands for nothing. -/
def parseProgram : List (List Char) → Option (List AsmLine)
  | [] => some []
  | text :: rest =>
    if splitWords [] (dropComment text) = [] then parseProgram rest
    else
      match parseLine text, parseProgram rest with
      | some l, some ls => some (l :: ls)
      | _, _ => none

/-- The turns of one line: after a CONFIGURE the sequencer has six turns before the program's next line
(95_test_vectors.md section 3; 40_configure.md R119). Where CONFIGURE is refused they pass with no step. -/
def lineTurns (ctx : Nat) (l : AsmLine) : List Turn :=
  match l with
  | .configure _ _ => asmTurn ctx l :: List.replicate 6 .sequencer
  | .read _ => [asmTurn ctx l]
  | .count _ => [asmTurn ctx l]

/-- The turns of a program issued by one host context: the schedule that runs it (log 1, log 19). -/
def programTurns (ctx : Nat) (p : List AsmLine) : List Turn := p.flatMap (lineTurns ctx)

end Sys2Proof.Machine
end

