-- ==== Sys2Proof/Safety.lean ====
section
/-! DEFINITION. What claims say of a state: a clean run, the slave-mode and field values a sequence has established, and
the invariant of the machine. -/

namespace Sys2Proof.Machine

/-- No command was refused since reset (60_exceptions.md R163). -/
def Clean (s : State) : Prop := s.seq.refused = false

/-- The next turn, if one is scheduled, is no platform reset. -/
def NoResetNext (s : State) : Prop := ∀ rest, s.schedule ≠ .platformReset :: rest

/-- Every field a write step sets holds in the timer what that step set it to (20_memory.md R64, 40_configure.md R123). -/
def FieldsHold (c : BitVec 4) (k : WriteStep) (t : Timer) : Prop :=
  ∀ e ∈ k.fields c, getField e.1 (t.get k.reg) = e.2

/-- The invariant: aligned register block; the log is exactly the entries of the write steps taken; options are latched
exactly after CONFIGURE was accepted; a context waits exactly during the sequence; the mark says whether a reason was
reported; CEN is 0 during the sequence and 1 after it; every field written holds its value; the counter registers fit
CNT_WIDTH. -/
structure Inv (s : State) : Prop where
  aligned : s.params.wellFormed = true
  log_is_steps : s.seq.log = s.seq.phase.done.map (fun k => k.entry (latchedCode s))
  mode_latched : s.seq.mode.isSome = (s.seq.phase != .notConfigured)
  arr_latched : s.seq.arr.isSome = (s.seq.phase != .notConfigured)
  waits_in_sequence : s.waiting.isSome = s.seq.phase.pending.isSome
  mark_is_reported : s.seq.refused = !s.reasons.isEmpty
  disabled_in_sequence : s.seq.phase.pending.isSome = true → cen s = false
  enabled_when_counting : s.seq.phase = .counting → cen s = true
  fields_hold : ∀ k ∈ s.seq.phase.done, FieldsHold (latchedCode s) k s.tim
  cnt_fits : s.tim.cnt &&& ~~~cntMask s.params = 0
  arr_fits : s.tim.arr &&& ~~~cntMask s.params = 0

end Sys2Proof.Machine
end

