-- ==== Sys2Proof/Certificates/Slice0/Obligations.lean ====
section
/-! DEFINITION. The statements for the provers. Each is about every state that meets its hypotheses, reachable or not. -/

open Sys2Proof Sys2Proof.Machine

/-! ## Decoding and the step -/

/-- 60_exceptions.md R172, 30_encoding.md R83: at the turn of a host context that is not blocked, a word that decodes to
a command runs that command; around it the step only takes the turn and notes the caller (log 1). -/
def Obligations.StepRunsTheDecodedCommand : Prop :=
  ∀ (s : State) (ctx : Nat) (w : Word) (rest : List Turn) (i : Instr),
    s.schedule = .host ctx w :: rest → isBlocked ctx s = false → decode w = .command i → i.wellFormed = true →
    step s = exec i { s with schedule := rest, caller := ctx }

/-- 40_configure.md R119: the context that waits for its own CONFIGURE has no step; its command stays first in the list
while the sequencer moves (log 4). -/
def Obligations.BlockedCallerWaitsForTheSequencer : Prop :=
  ∀ (s : State) (ctx : Nat) (w : Word) (rest : List Turn),
    s.schedule = .host ctx w :: rest → s.seq.phase.pending.isSome = true → s.waiting = some ctx →
    step s = .next (sequencerStep s) ∧ (sequencerStep s).schedule = .host ctx w :: rest

/-- 40_configure.md R111, 70_reset_and_hazards.md R205: the sequencer moves at its own turn, and where no turn is left and
it is enabled (log 2); where it is not enabled its turn passes with no change (log 3). -/
def Obligations.SequencerMovesAtItsTurn : Prop :=
  ∀ s : State,
    (∀ rest, s.schedule = .sequencer :: rest → step s = .next (sequencerStep { s with schedule := rest })) ∧
    (s.schedule = [] → s.seq.phase.pending.isSome = true → step s = .next (sequencerStep s)) ∧
    (s.seq.phase.pending = none → sequencerStep s = s)

/-- 95_test_vectors.md 2.1: words written out from the field table of 30_encoding.md R81, and what they decode to. -/
def Obligations.TabulatedWordsDecode : Prop :=
  decode 0b00010000000000111111111111111111#32 = .command (.configure 0b0011#4 0xFFFF#16) ∧
  decode 0b00010000000010100000010000000000#32 = .command (.configure 0b1010#4 0x0400#16) ∧
  decode 0b00010000000000000000000000000000#32 = .command (.configure 0b0000#4 0x0000#16) ∧
  decode 0b00100000000000000000000000000000#32 = .command .read ∧
  decode 0b00010000000100001111111111111111#32 = .reserved 0b00010000000100001111111111111111#32 ∧
  decode 0b00100000000000000000000000000001#32 = .reserved 0b00100000000000000000000000000001#32

/-- 30_encoding.md R81, R83, R91: the decoder reads back every operand of every command from its word. -/
def Obligations.DecodeReadsBackEveryCommand : Prop :=
  ∀ i : Instr, i.wellFormed = true → decode (encode i) = .command i

/-- 30_encoding.md R81, R83: a word that decodes to a command is that command's word: no two words mean one command. -/
def Obligations.CommandHasOneWord : Prop :=
  ∀ (w : Word) (i : Instr), decode w = .command i → encode i = w

/-- 30_encoding.md R84: which words are reserved, and that such a word is refused with nothing but the mark changed. That
it is refused is the spec's own decision D15 (60_exceptions.md R163: "A refusal is the model's, not the hardware's"); the
reason, the turn and the caller are the model's own, log 1, 5 and 6. -/
def Obligations.ReservedWordsAreTheListedAndRefused : Prop :=
  (∀ w : Word, decode w = .reserved w ↔
    ((w.extractLsb' 28 4 ≠ 0b0001#4 ∧ w.extractLsb' 28 4 ≠ 0b0010#4) ∨
     (w.extractLsb' 28 4 = 0b0001#4 ∧ w.extractLsb' 20 8 ≠ 0#8) ∨
     (w.extractLsb' 28 4 = 0b0010#4 ∧ w.extractLsb' 0 28 ≠ 0#28))) ∧
  (∀ (s : State) (ctx : Nat) (w : Word) (rest : List Turn),
    s.schedule = .host ctx w :: rest → isBlocked ctx s = false → decode w = .reserved w →
    step s = .next { s with
      schedule := rest, caller := ctx, seq := { s.seq with refused := true }, reasons := s.reasons ++ [.reservedWord] })

/-- 30_encoding.md R86, R97, R98: a CONFIGURE line of program text, with any operands omitted, becomes a word that decodes
to CONFIGURE with the default options in their place (the text form: the spec's decision D5 and log 19). -/
def Obligations.AssembledConfigureTakesDefaults : Prop :=
  ∀ (ctx : Nat) (mode : Option (BitVec 4)) (arr : Option (BitVec 16)),
    ∃ w, asmTurn ctx (.configure mode arr) = .host ctx w ∧
      decode w = .command (.configure (mode.getD 0b0011#4) (arr.getD 0xFFFF#16))

/-- Log 25: a word issued next is run by the very next step, by a context that is not blocked. -/
def Obligations.IssuedWordRunsNext : Prop :=
  ∀ (s : State) (w : Nat) (i : Instr), decode (BitVec.ofNat 32 w) = .command i →
    step (s.withFetchWord 32 w) = exec i { s with caller := freeContext s }

/-! ## CONFIGURE and READ -/

/-- 40_configure.md R110 with the premises of 70_reset_and_hazards.md R196: accepted, or refused for the phase, or refused
for a premise, in that order of checks. That a violated premise is checked and refused is the spec's own decision D12;
`waiting` and `reasons` are the model's own records, log 4 and 5. -/
def Obligations.ConfigureAcceptsOrRefuses : Prop :=
  ∀ (mode : BitVec 4) (arr : BitVec 16) (s : State),
    (s.seq.phase = .notConfigured → s.premises = ⟨true, true, true⟩ → getField .cen s.tim.cr1 = 0 →
      exec (.configure mode arr) s = .next { s with
        seq := { s.seq with phase := .seq1, mode := some mode, arr := some arr }, waiting := some s.caller }) ∧
    (s.seq.phase ≠ .notConfigured →
      exec (.configure mode arr) s = .next { s with
        seq := { s.seq with refused := true }, reasons := s.reasons ++ [.configureNotIdle] }) ∧
    (s.seq.phase = .notConfigured → (s.premises ≠ ⟨true, true, true⟩ ∨ getField .cen s.tim.cr1 ≠ 0) →
      exec (.configure mode arr) s = .next { s with
        seq := { s.seq with refused := true }, reasons := s.reasons ++ [.premiseViolated] })

/-- 41_read.md R140, R142, R145: the value READ returns at every width, with nothing else changed, and its refusal where
there is no handle. The block is at an aligned address (20_memory.md R65). The refusal is the spec's own decision D14; the list of
reasons and the list of responses are the model's form of them, log 5 and 6. -/
def Obligations.ReadReturnsTheCounter : Prop :=
  ∀ s : State,
    (s.seq.phase = .counting → s.params.timBase.toNat % 4 = 0 →
      ∃ v, exec .read s = .next { s with responses := s.responses ++ [⟨s.caller, v⟩] } ∧
        (s.params.readWidth = .u16 → v = (s.tim.cnt.extractLsb' 0 16).setWidth 32) ∧
        (s.params.readWidth = .native → s.params.cntWidth = .w16 → v = (s.tim.cnt.extractLsb' 0 16).setWidth 32) ∧
        (s.params.readWidth = .native → s.params.cntWidth = .w32 → v = s.tim.cnt)) ∧
    (s.seq.phase ≠ .counting →
      exec .read s = .next { s with
        seq := { s.seq with refused := true }, reasons := s.reasons ++ [.noHandle] })

/-- 41_read.md R141: two READs with no count event between them return the same value and change no timer register, no
phase and no log. That a READ's value is a list entry of caller and value is the model's form, log 6. -/
def Obligations.ReadTwiceReturnsTheSame : Prop :=
  ∀ s : State, s.seq.phase = .counting → s.params.timBase.toNat % 4 = 0 →
    ∃ t u v, exec .read s = .next t ∧ exec .read t = .next u ∧
      u.responses = s.responses ++ [⟨s.caller, v⟩, ⟨s.caller, v⟩] ∧
      t.tim = s.tim ∧ u.tim = s.tim ∧ t.seq = s.seq ∧ u.seq = s.seq

/-- 41_read.md R144, 20_memory.md R67, R71: READs of several contexts, one after the other in either order, each return
the counter at that instant, at every width of R142 (turns and responses: the model's form, log 1 and 6). -/
def Obligations.ReadsOfTwoContextsAgree : Prop :=
  ∀ (s : State) (c d : Nat) (rest : List Turn), s.seq.phase = .counting → s.params.timBase.toNat % 4 = 0 →
    s.schedule = .host c 0x20000000#32 :: .host d 0x20000000#32 :: rest →
    ∃ t v, core.run 2 s = .next t ∧ t.responses = s.responses ++ [⟨c, v⟩, ⟨d, v⟩] ∧
      (s.params.readWidth = .u16 → v = (s.tim.cnt.extractLsb' 0 16).setWidth 32) ∧
      (s.params.readWidth = .native → s.params.cntWidth = .w16 → v = (s.tim.cnt.extractLsb' 0 16).setWidth 32) ∧
      (s.params.readWidth = .native → s.params.cntWidth = .w32 → v = s.tim.cnt) ∧
      t.schedule = rest ∧ t.tim = s.tim ∧ t.seq = s.seq

/-- The frame of CONFIGURE and READ: no command changes a timer register or any byte of the register block, a parameter,
a premise or the log (40_configure.md R110, 41_read.md R141, 60_exceptions.md R163); READ changes no phase and no option,
CONFIGURE returns no value (30_encoding.md R82). -/
def Obligations.CommandsLeaveTheTimerAlone : Prop :=
  ∀ (i : Instr) (s t : State), exec i s = .next t →
    t.tim = s.tim ∧ (∀ a, busByte t a = busByte s a) ∧ t.params = s.params ∧ t.premises = s.premises ∧
    t.seq.log = s.seq.log ∧ t.caller = s.caller ∧ t.schedule = s.schedule ∧ t.draws = s.draws ∧
    (i = .read → t.seq.phase = s.seq.phase ∧ t.seq.mode = s.seq.mode ∧ t.seq.arr = s.seq.arr ∧ t.waiting = s.waiting) ∧
    (i ≠ .read → t.responses = s.responses)

/-! ## The write steps -/

/-- 40_configure.md R112: W1. What becomes of the other bits is OTHER_BITS, the spec's own decision D7; under ANY they are
a free value and the model's draw index advances, log 7. -/
def Obligations.InputSelectOneStep : Prop :=
  ∀ s : State, s.seq.phase = .seq1 → s.params.timBase.toNat % 4 = 0 →
    sequencerStep s = { s with
      tim := { s.tim with ccmr1 := match s.params.otherBits with
        | .preserve => (s.tim.ccmr1 &&& ~~~0x00000003#32) ||| 0x00000001#32
        | .any => (Config.freeWord s.draws &&& ~~~0x00000003#32) ||| 0x00000001#32 }
      seq := { s.seq with phase := .seq2, log := s.seq.log ++ [⟨.ccmr1, [(.cc1s, 0b01#32)]⟩] }
      draws := match s.params.otherBits with | .preserve => s.draws | .any => s.draws + 1 }

/-- 40_configure.md R113: W2; CC1S stays as it was under either setting, which is the spec's own decision D7 (mask K
of 20_memory.md R64). Under ANY the other bits are a free value and the model's draw index advances, log 7. -/
def Obligations.InputSelectTwoStep : Prop :=
  ∀ s : State, s.seq.phase = .seq2 → s.params.timBase.toNat % 4 = 0 →
    sequencerStep s = { s with
      tim := { s.tim with ccmr1 := match s.params.otherBits with
        | .preserve => (s.tim.ccmr1 &&& ~~~0x00000300#32) ||| 0x00000100#32
        | .any => (Config.freeWord s.draws &&& ~~~0x00000303#32) ||| (s.tim.ccmr1 &&& 0x00000003#32) ||| 0x00000100#32 }
      seq := { s.seq with phase := .seq3, log := s.seq.log ++ [⟨.ccmr1, [(.cc2s, 0b01#32)]⟩] }
      draws := match s.params.otherBits with | .preserve => s.draws | .any => s.draws + 1 } ∧
    getField .cc1s (sequencerStep s).tim.ccmr1 = getField .cc1s s.tim.ccmr1

/-- 40_configure.md R114: W3. That it clears CC1NP too is the spec's own reading of "non-inverted", decision D8 (log 16).
What
becomes of the other bits is OTHER_BITS, decision D7; under ANY they are a free value and the model's draw index advances,
log 7. -/
def Obligations.PolarityOneStep : Prop :=
  ∀ s : State, s.seq.phase = .seq3 → s.params.timBase.toNat % 4 = 0 →
    sequencerStep s = { s with
      tim := { s.tim with ccer := match s.params.otherBits with
        | .preserve => s.tim.ccer &&& ~~~0x0000000A#32
        | .any => Config.freeWord s.draws &&& ~~~0x0000000A#32 }
      seq := { s.seq with phase := .seq4, log := s.seq.log ++ [⟨.ccer, [(.cc1p, 0), (.cc1np, 0)]⟩] }
      draws := match s.params.otherBits with | .preserve => s.draws | .any => s.draws + 1 }

/-- 40_configure.md R115: W4; CC1P and CC1NP stay as they were under either setting, which is the spec's own decision
D7 (mask K of 20_memory.md R64). Under ANY the other bits are a free value and the model's draw index advances, log 7. -/
def Obligations.PolarityTwoStep : Prop :=
  ∀ s : State, s.seq.phase = .seq4 → s.params.timBase.toNat % 4 = 0 →
    sequencerStep s = { s with
      tim := { s.tim with ccer := match s.params.otherBits with
        | .preserve => s.tim.ccer &&& ~~~0x000000A0#32
        | .any => (Config.freeWord s.draws &&& ~~~0x000000AA#32) ||| (s.tim.ccer &&& 0x0000000A#32) }
      seq := { s.seq with phase := .seq5, log := s.seq.log ++ [⟨.ccer, [(.cc2p, 0), (.cc2np, 0)]⟩] }
      draws := match s.params.otherBits with | .preserve => s.draws | .any => s.draws + 1 } ∧
    getField .cc1p (sequencerStep s).tim.ccer = getField .cc1p s.tim.ccer ∧
    getField .cc1np (sequencerStep s).tim.ccer = getField .cc1np s.tim.ccer

/-- 40_configure.md R116: W5, with the split of 30_encoding.md R88; the code the timer then sees is the latched one
(30_encoding.md R89). What becomes of the other bits is OTHER_BITS, the spec's own decision D7; under ANY they are a free
value and the model's draw index advances, log 7. W5 with no mode latched is left to WriteStepSetsNamedFieldsOnly: no run
from reset reaches it, log 11. -/
def Obligations.SlaveModeStep : Prop :=
  ∀ (s : State) (c : BitVec 4), s.seq.phase = .seq5 → s.seq.mode = some c → s.params.timBase.toNat % 4 = 0 →
    sequencerStep s = { s with
      tim := { s.tim with smcr := (match s.params.otherBits with
        | .preserve => s.tim.smcr &&& ~~~0x00010007#32
        | .any => Config.freeWord s.draws &&& ~~~0x00010007#32) |||
          (((c.setWidth 32 &&& 0x8#32) <<< 13) ||| (c.setWidth 32 &&& 0x7#32)) }
      seq := { s.seq with
        phase := .seq6
        log := s.seq.log ++ [⟨.smcr, [(.smsLo, c.setWidth 32 &&& 0x7#32),
          (.smsHi, if c &&& 0x8#4 ≠ 0 then 1 else 0)]⟩] }
      draws := match s.params.otherBits with | .preserve => s.draws | .any => s.draws + 1 } ∧
    codeSeen (sequencerStep s).tim.smcr = c

/-- 40_configure.md R117: W6, after which CEN is 1 and no later step of the block clears it; a reset of the whole platform
is no step of the block (70_reset_and_hazards.md R191, log 12). `waiting` is the model's record, log 4; what
becomes of the other bits is OTHER_BITS, the spec's own decision D7; under ANY they are a free value and the model's draw
index advances, log 7. -/
def Obligations.CounterEnableStep : Prop :=
  (∀ s : State, s.seq.phase = .seq6 → s.params.timBase.toNat % 4 = 0 →
    sequencerStep s = { s with
      tim := { s.tim with cr1 := match s.params.otherBits with
        | .preserve => (s.tim.cr1 &&& ~~~0x00000001#32) ||| 0x00000001#32
        | .any => (Config.freeWord s.draws &&& ~~~0x00000001#32) ||| 0x00000001#32 }
      seq := { s.seq with phase := .counting, log := s.seq.log ++ [⟨.cr1, [(.cen, 1)]⟩] }
      waiting := none
      draws := match s.params.otherBits with | .preserve => s.draws | .any => s.draws + 1 } ∧
    cen (sequencerStep s) = true) ∧
  (∀ s t : State, step s = .next t → NoResetNext s → cen s = true → cen t = true)

/-- 30_encoding.md R88, R89: splitting a mode code and joining the two field values are inverse in both directions,
between all 16 codes and all 16 pairs; the split is the low three bits and the high bit. -/
def Obligations.SplitAndJoinAreInverse : Prop :=
  (∀ c : BitVec 4, splitLo c = c.extractLsb' 0 3 ∧ splitHi c = c.extractLsb' 3 1) ∧
  (∀ c : BitVec 4, joinCode (splitHi c) (splitLo c) = c) ∧
  (∀ (hi : BitVec 1) (lo : BitVec 3), splitHi (joinCode hi lo) = hi ∧ splitLo (joinCode hi lo) = lo)

/-- 30_encoding.md R87: every variant has one 4-bit code and every 4-bit value names exactly one variant; code 0b0011 is
EncoderMode3. The names of the other variants are general knowledge (log 20), and nothing here depends on them. -/
def Obligations.SlaveModeCodesNameEachVariantOnce : Prop :=
  (∀ m : SlaveMode, slaveModeOf m.code = m) ∧ (∀ c : BitVec 4, (slaveModeOf c).code = c) ∧
  slaveModeOf 0b0011#4 = .encoderMode3

/-- 10_state.md R34: the two slave-mode fields are written together by W5, to the low three bits and the high bit of the
latched code, so that the timer sees that code; and by nothing else: no other step of the sequencer, no command and no count
changes SMCR. The block is at an aligned address (20_memory.md R65). -/
def Obligations.SlaveModeFieldsAreWrittenByW5Only : Prop :=
  (∀ (s : State) (c : BitVec 4), s.seq.phase = .seq5 → s.seq.mode = some c → s.params.timBase.toNat % 4 = 0 →
    getField .smsLo (sequencerStep s).tim.smcr = c.setWidth 32 &&& 0x7#32 ∧
    getField .smsHi (sequencerStep s).tim.smcr = (if c &&& 0x8#4 ≠ 0 then 1 else 0) ∧
    codeSeen (sequencerStep s).tim.smcr = c) ∧
  (∀ s : State, s.seq.phase ≠ .seq5 → (sequencerStep s).tim.smcr = s.tim.smcr) ∧
  (∀ (i : Instr) (s t : State), exec i s = .next t → t.tim.smcr = s.tim.smcr) ∧
  (∀ (dir : CountDir) (s : State), (countStep dir s).tim.smcr = s.tim.smcr)

/-- From 20_memory.md R61, "No operation of the block reaches any other register": W1 and W2 (SEQ1, SEQ2) change no register
but CCMR1, W3 and W4 (SEQ3, SEQ4) none but CCER, W5 (SEQ5) none but SMCR, W6 (SEQ6) none but CR1; outside these phases the
sequencer changes none; no command changes any, and READ depends on none but CNT. That each write takes place and that READ
returns CNT are statements of their own (InputSelectOneStep to CounterEnableStep, ReadReturnsTheCounter). -/
def Obligations.OperationsReachTheirRegistersOnly : Prop :=
  (∀ s : State,
    (s.seq.phase = .seq1 ∨ s.seq.phase = .seq2 →
      (sequencerStep s).tim = { s.tim with ccmr1 := (sequencerStep s).tim.ccmr1 }) ∧
    (s.seq.phase = .seq3 ∨ s.seq.phase = .seq4 →
      (sequencerStep s).tim = { s.tim with ccer := (sequencerStep s).tim.ccer }) ∧
    (s.seq.phase = .seq5 → (sequencerStep s).tim = { s.tim with smcr := (sequencerStep s).tim.smcr }) ∧
    (s.seq.phase = .seq6 → (sequencerStep s).tim = { s.tim with cr1 := (sequencerStep s).tim.cr1 }) ∧
    (s.seq.phase = .notConfigured ∨ s.seq.phase = .counting → (sequencerStep s).tim = s.tim)) ∧
  (∀ (i : Instr) (s t : State), exec i s = .next t → t.tim = s.tim) ∧
  (∀ (s t : State) (x : Timer), x.cnt = s.tim.cnt → exec .read s = .next t →
    exec .read { s with tim := x } = .next { t with tim := x })

/-- 30_encoding.md R89, 10_state.md R34: two values of SMCR show the timer the same code exactly if both of its fields
agree, whatever the other bits; so a code seen in SMCR gives back the two field values. -/
def Obligations.CodeSeenDependsOnBothFieldsOnly : Prop :=
  ∀ v w : Word, codeSeen v = codeSeen w ↔
    (getField .smsLo v = getField .smsLo w ∧ getField .smsHi v = getField .smsHi w)

/-- 20_memory.md R64: after a write step every field it names holds its value and every field an earlier step wrote keeps
its value, under either setting; under PRESERVE every other bit is unchanged. -/
def Obligations.WriteStepSetsNamedFieldsOnly : Prop :=
  ∀ (s : State) (k : WriteStep), s.seq.phase.pending = some k → s.params.timBase.toNat % 4 = 0 →
    (∀ e ∈ k.fields (latchedCode s), getField e.1 ((sequencerStep s).tim.get k.reg) = e.2) ∧
    (∀ j ∈ k.earlier, ∀ e ∈ j.fields (latchedCode s),
      getField e.1 ((sequencerStep s).tim.get j.reg) = getField e.1 (s.tim.get j.reg)) ∧
    (s.params.otherBits = .preserve →
      (sequencerStep s).tim.get k.reg &&& ~~~maskOf (k.fields (latchedCode s)) =
        s.tim.get k.reg &&& ~~~maskOf (k.fields (latchedCode s)))

/-- The frame of the write steps (20_memory.md R61): every byte outside the four of the register the step writes reads as
before; options, mark, parameters, premises, responses and the turns are unchanged. -/
def Obligations.WriteStepLeavesOtherBytes : Prop :=
  ∀ (s : State) (k : WriteStep), s.seq.phase.pending = some k → s.params.timBase.toNat % 4 = 0 →
    (∀ a : Word, 4 ≤ (a - (s.params.timBase + k.reg.offset)).toNat → busByte (sequencerStep s) a = busByte s a) ∧
    (sequencerStep s).seq.mode = s.seq.mode ∧ (sequencerStep s).seq.arr = s.seq.arr ∧
    (sequencerStep s).seq.refused = s.seq.refused ∧ (sequencerStep s).reasons = s.reasons ∧
    (sequencerStep s).params = s.params ∧ (sequencerStep s).premises = s.premises ∧
    (sequencerStep s).responses = s.responses ∧ (sequencerStep s).caller = s.caller ∧
    (sequencerStep s).schedule = s.schedule

/-- 20_memory.md R65: every offset is a multiple of 4, so an aligned block is never accessed misaligned; an access at an
address that is not a multiple of 4 is refused with nothing else changed (the spec's own decision D17; log 5 and 26). -/
def Obligations.MisalignedAccessIsRefused : Prop :=
  (∀ r : Reg, r.offset.toNat % 4 = 0) ∧
  (∀ (p : Params) (r : Reg), p.timBase.toNat % 4 = 0 → (busAddr p r).toNat % 4 = 0) ∧
  (∀ s : State, s.params.timBase.toNat % 4 ≠ 0 → s.seq.phase.pending.isSome = true →
    sequencerStep s = { s with seq := { s.seq with refused := true }, reasons := s.reasons ++ [.misaligned] }) ∧
  (∀ s : State, s.params.timBase.toNat % 4 ≠ 0 → s.seq.phase = .counting →
    exec .read s = .next { s with seq := { s.seq with refused := true }, reasons := s.reasons ++ [.misaligned] })

/-- 20_memory.md R63: byte `i` of the register at `TIM_BASE + off` is bits `[8i+7 : 8i]` of its value (the
spec's own decision D16; log 21). -/
def Obligations.ByteViewIsLittleEndian : Prop :=
  ∀ (s : State) (r : Reg) (i : Nat), i < 4 →
    busByte s (s.params.timBase + r.offset + BitVec.ofNat 32 i) = some ((s.tim.get r).extractLsb' (8 * i) 8)

/-! ## The counter -/

/-- 60_exceptions.md R168: a count step wraps at ARR in both directions; it changes the counter field and nothing else,
so the boundary stays. That the bits of the register above CNT_WIDTH are kept is the model's own choice, log 13. -/
def Obligations.CountStepWrapsAtReload : Prop :=
  ∀ (s : State) (dir : CountDir), cen s = true → (countOf s).toNat ≤ (reloadOf s).toNat →
    countOf (countStep dir s) = (match dir with
      | .up => if countOf s = reloadOf s then 0 else countOf s + 1
      | .down => if countOf s = 0 then reloadOf s else countOf s - 1) ∧
    countStep dir s = { s with tim := { s.tim with cnt := (countStep dir s).tim.cnt } } ∧
    (countStep dir s).tim.cnt &&& ~~~cntMask s.params = s.tim.cnt &&& ~~~cntMask s.params

/-- 60_exceptions.md R169: a count step with CNT above ARR leaves any value of CNT_WIDTH bits (a free value: true
whatever it is), and changes nothing else but the model's draw index. That the result is a draw is the spec's own decision
D24; the draw index is log 7, the kept bits above CNT_WIDTH are log 13. -/
def Obligations.CountAboveReloadIsFree : Prop :=
  ∀ (s : State) (dir : CountDir), cen s = true → (reloadOf s).toNat < (countOf s).toNat →
    countStep dir s = { s with
      tim := { s.tim with
        cnt := (s.tim.cnt &&& ~~~cntMask s.params) ||| (Config.freeWord s.draws &&& cntMask s.params) }
      draws := s.draws + 1 }

/-- 60_exceptions.md R167: a count turn with CEN = 0 passes with no step; with CEN = 1 it counts, and writes only CNT
(turns: log 1 and 3). -/
def Obligations.CountTurnNeedsEnable : Prop :=
  ∀ (s : State) (dir : CountDir) (rest : List Turn), s.schedule = .count dir :: rest →
    (cen s = false → step s = .next { s with schedule := rest }) ∧
    (cen s = true → ∃ t, step s = .next t ∧ t = countStep dir { s with schedule := rest } ∧
      t.seq = s.seq ∧ t.tim = { s.tim with cnt := t.tim.cnt } ∧ t.params = s.params ∧ t.premises = s.premises ∧
      t.waiting = s.waiting ∧ t.responses = s.responses ∧ t.reasons = s.reasons)

/-- 60_exceptions.md R168: a count up and a count down undo each other, in either order. That the whole state comes back
includes the bits of CNT above CNT_WIDTH, which a count keeps by the model's own choice, log 13. -/
def Obligations.CountUpAndDownCancel : Prop :=
  ∀ s : State, cen s = true → (countOf s).toNat ≤ (reloadOf s).toNat →
    countStep .down (countStep .up s) = s ∧ countStep .up (countStep .down s) = s

/-- 60_exceptions.md R168, 40_configure.md R120: once the counter is within the wrap boundary, every step but a platform
reset keeps it there. -/
def Obligations.CounterStaysWithinReload : Prop :=
  ∀ s t : State, step s = .next t → NoResetNext s → (countOf s).toNat ≤ (reloadOf s).toNat →
    (countOf t).toNat ≤ (reloadOf t).toNat

/-- 30_encoding.md R90, 10_state.md R30: the counter's step is the same for every mode code and every value of the input
stage's registers. -/
def Obligations.CountingIgnoresModeAndInputs : Prop :=
  ∀ (s : State) (dir : CountDir) (m : Option (BitVec 4)) (smcr ccmr1 ccer : Word),
    countStep dir { s with
      seq := { s.seq with mode := m }, tim := { s.tim with smcr := smcr, ccmr1 := ccmr1, ccer := ccer } } =
    { countStep dir s with
      seq := { (countStep dir s).seq with mode := m }
      tim := { (countStep dir s).tim with smcr := smcr, ccmr1 := ccmr1, ccer := ccer } }

/-! ## Rules of the whole machine -/

/-- 60_exceptions.md R160, 00_scope.md R12: no step ends in a fault or a refusal of the interface. -/
def Obligations.EveryStepGoesOn : Prop :=
  ∀ s : State, ∃ t, step s = .next t

/-- 10_state.md R25, 60_exceptions.md R163: a machine that is clean was clean before: the refusal mark is never cleared
but by a platform reset; and the reasons reported (the model's own record, log 5) are never taken back. -/
def Obligations.RefusalMarkIsSticky : Prop :=
  ∀ s t : State, step s = .next t → NoResetNext s → (Clean t → Clean s) ∧ s.reasons <+: t.reasons

/-- 10_state.md R22, 40_configure.md R121: but for a platform reset, the phase stays or advances by exactly one; it never
moves backwards and COUNTING is terminal. -/
def Obligations.PhaseAdvancesByOne : Prop :=
  ∀ s t : State, step s = .next t → NoResetNext s →
    t.seq.phase = s.seq.phase ∨ t.seq.phase.code.toNat = s.seq.phase.code.toNat + 1

/-- 10_state.md R37, 40_configure.md R120: no step but a platform reset writes ARR. 10_state.md R36, 60_exceptions.md R167:
only the counter agent writes CNT, and it is enabled only when CEN = 1, so CNT stays while CEN = 0; that it does rests on the
spec's own decision D23 (log 16). The platform reset shut out is log 12. -/
def Obligations.ReloadAndIdleCounterAreKept : Prop :=
  ∀ s t : State, step s = .next t → NoResetNext s →
    t.tim.arr = s.tim.arr ∧ (cen s = false → t.tim.cnt = s.tim.cnt)

/-- 10_state.md R23, R24: options are latched only where CONFIGURE is accepted, from NOT_CONFIGURED; after that no step
but a platform reset changes them. -/
def Obligations.OptionsAreLatchedOnce : Prop :=
  ∀ s t : State, step s = .next t → NoResetNext s → s.seq.phase ≠ .notConfigured →
    t.seq.mode = s.seq.mode ∧ t.seq.arr = s.seq.arr

/-- 10_state.md R26: a step leaves the log alone or appends the one entry of the write step that was pending. -/
def Obligations.LogGrowsByPendingStep : Prop :=
  ∀ s t : State, step s = .next t → NoResetNext s →
    t.seq.log = s.seq.log ∨
    ∃ k, s.seq.phase.pending = some k ∧ t.seq.phase = k.next ∧ t.seq.log = s.seq.log ++ [k.entry (latchedCode s)]

/-- 10_state.md R20, R28, 20_memory.md R61, R66: but for a platform reset, no step changes a timer register other than
CNT unless it is the pending write step of that register, and that step changes only that register. -/
def Obligations.OnlyPendingStepWritesItsRegister : Prop :=
  ∀ s t : State, step s = .next t → NoResetNext s →
    (∀ r : Reg, r ≠ .cnt → t.tim.get r = s.tim.get r) ∨
    ∃ k, s.seq.phase.pending = some k ∧ t.seq.phase = k.next ∧
      ∀ r : Reg, r ≠ k.reg → t.tim.get r = s.tim.get r

/-- 00_scope.md R9, 10_state.md R41: the parameters are configuration: no step changes them (log 15). -/
def Obligations.ParametersNeverChange : Prop :=
  ∀ s t : State, step s = .next t → t.params = s.params

/-- 10_state.md R24, 40_configure.md R120: the reload option is dead: two machines that differ only in it step to machines
that differ at most in it. -/
def Obligations.ReloadOptionIsDead : Prop :=
  ∀ (s : State) (x : Option (BitVec 16)),
    ∃ t u, step s = .next t ∧ step { s with seq := { s.seq with arr := x } } = .next u ∧
      { u with seq := { u.seq with arr := none } } = { t with seq := { t.seq with arr := none } }

/-- Log 2: with no turn left, the sequencer not enabled and CEN = 0, nothing moves. -/
def Obligations.NothingMovesWhenNothingIsEnabled : Prop :=
  ∀ s : State, s.schedule = [] → s.seq.phase.pending = none → cen s = false → step s = .next s

/-! ## Reset and the invariant -/

/-- 70_reset_and_hazards.md R190, R191, 10_state.md R39: the sequencer's reset values, at reset and after a reset of the
platform. The reset event and every value but the phase are the spec's own decision D21; that a platform reset is a turn of
the list is the model's form, log 1 and 12. -/
def Obligations.ResetValuesOfTheSequencer : Prop :=
  State.reset.seq = ⟨.notConfigured, none, none, false, []⟩ ∧
  ∀ (s : State) (rest : List Turn), s.schedule = .platformReset :: rest →
    ∃ t, step s = .next t ∧ t.seq = ⟨.notConfigured, none, none, false, []⟩

/-- 70_reset_and_hazards.md R191, log 12: a reset of the platform draws every timer register, of which nothing is then
known but that the counter's fit their width, draws the premises, and keeps the parameters, the responses and the turns
left. -/
def Obligations.PlatformResetDrawsTheTimer : Prop :=
  ∀ (s : State) (rest : List Turn), s.schedule = .platformReset :: rest →
    ∃ t, step s = .next t ∧
      t.tim.cr1 = Config.freeWord s.draws ∧ t.tim.smcr = Config.freeWord (s.draws + 1) ∧
      t.tim.ccmr1 = Config.freeWord (s.draws + 2) ∧ t.tim.ccer = Config.freeWord (s.draws + 3) ∧
      t.tim.cnt = Config.freeWord (s.draws + 4) &&& cntMask s.params ∧
      t.tim.arr = Config.freeWord (s.draws + 5) &&& cntMask s.params ∧
      t.premises = drawnPremises (s.draws + 6) ∧ t.draws = s.draws + 7 ∧ t.waiting = none ∧ t.reasons = [] ∧
      t.params = s.params ∧ t.responses = s.responses ∧ t.schedule = rest

/-- The invariant holds at reset, for the reset state and for every aligned block with any premises and any timer contents
that fit the counter's width (10_state.md R39, R40; log 8, 9 and 10 for the values of State.reset). -/
def Obligations.InvariantHoldsAtReset : Prop :=
  Inv State.reset ∧
  ∀ (p : Params) (pr : Premises) (t : Timer), p.timBase.toNat % 4 = 0 →
    t.cnt &&& ~~~cntMask p = 0 → t.arr &&& ~~~cntMask p = 0 → Inv (State.launch p pr t)

/-- Every step keeps the invariant: the log is always the entries of the steps taken in order, every field written keeps
its value, and the counter is enabled only after every field is committed (40_configure.md R122, R123, 20_memory.md R70,
70_reset_and_hazards.md R198). The waiting context, the reported reasons and the bits of CNT and ARR above CNT_WIDTH are
the model's own, log 4, 5 and 13. -/
def Obligations.StepKeepsTheInvariant : Prop :=
  ∀ s t : State, Inv s → step s = .next t → Inv t

/-- 40_configure.md R122, R123: a CONFIGURE from a state that meets the launch premises ends in COUNTING, with the log of
R122, every field at its value, CNT and ARR untouched, and under PRESERVE every other bit as it was. That the sequencer
moves where no turn is left is the model's own choice, log 2: six of the seven steps rest on it. -/
def Obligations.ConfigureRunsToCounting : Prop :=
  ∀ (s : State) (ctx : Nat) (c : BitVec 4) (a : BitVec 16),
    s.seq.phase = .notConfigured → s.premises = ⟨true, true, true⟩ → getField .cen s.tim.cr1 = 0 →
    s.params.timBase.toNat % 4 = 0 → s.schedule = [.host ctx (encode (.configure c a))] →
    ∃ t, core.run 7 s = .next t ∧ t.seq.phase = .counting ∧ t.seq.mode = some c ∧ t.seq.refused = s.seq.refused ∧
      t.seq.log = s.seq.log ++
        [⟨.ccmr1, [(.cc1s, 0b01#32)]⟩, ⟨.ccmr1, [(.cc2s, 0b01#32)]⟩,
         ⟨.ccer, [(.cc1p, 0), (.cc1np, 0)]⟩, ⟨.ccer, [(.cc2p, 0), (.cc2np, 0)]⟩,
         ⟨.smcr, [(.smsLo, c.setWidth 32 &&& 0x7#32), (.smsHi, if c &&& 0x8#4 ≠ 0 then 1 else 0)]⟩,
         ⟨.cr1, [(.cen, 1)]⟩] ∧
      getField .cc1s t.tim.ccmr1 = 0b01#32 ∧ getField .cc2s t.tim.ccmr1 = 0b01#32 ∧
      getField .cc1p t.tim.ccer = 0 ∧ getField .cc1np t.tim.ccer = 0 ∧
      getField .cc2p t.tim.ccer = 0 ∧ getField .cc2np t.tim.ccer = 0 ∧
      getField .smsLo t.tim.smcr = c.setWidth 32 &&& 0x7#32 ∧
      getField .smsHi t.tim.smcr = (if c &&& 0x8#4 ≠ 0 then 1 else 0) ∧
      getField .cen t.tim.cr1 = 1 ∧ t.tim.cnt = s.tim.cnt ∧ t.tim.arr = s.tim.arr ∧
      (s.params.otherBits = .preserve →
        t.tim.ccmr1 &&& ~~~0x00000303#32 = s.tim.ccmr1 &&& ~~~0x00000303#32 ∧
        t.tim.ccer &&& ~~~0x000000AA#32 = s.tim.ccer &&& ~~~0x000000AA#32 ∧
        t.tim.smcr &&& ~~~0x00010007#32 = s.tim.smcr &&& ~~~0x00010007#32 ∧
        t.tim.cr1 &&& ~~~0x00000001#32 = s.tim.cr1 &&& ~~~0x00000001#32)

/-- 41_read.md R146: the first READ after CONFIGURE, with no count event between, returns the value CNT held before
CONFIGURE: the counter is not reset. That the READ of the same context stays first in the list while the sequencer moves
is the model's form of R119, log 4. -/
def Obligations.FirstReadReturnsTheOldCount : Prop :=
  ∀ (s : State) (ctx : Nat) (c : BitVec 4) (a : BitVec 16) (rest : List Turn),
    s.seq.phase = .notConfigured → s.premises = ⟨true, true, true⟩ → getField .cen s.tim.cr1 = 0 →
    s.params.timBase.toNat % 4 = 0 →
    s.schedule = .host ctx (encode (.configure c a)) :: .host ctx (encode .read) :: rest →
    ∃ t v, core.run 8 s = .next t ∧ t.responses = s.responses ++ [⟨ctx, v⟩] ∧ t.schedule = rest ∧
      (s.params.readWidth = .u16 → v = (s.tim.cnt.extractLsb' 0 16).setWidth 32) ∧
      (s.params.readWidth = .native → s.params.cntWidth = .w16 → v = (s.tim.cnt.extractLsb' 0 16).setWidth 32) ∧
      (s.params.readWidth = .native → s.params.cntWidth = .w32 → v = s.tim.cnt)

/-- 70_reset_and_hazards.md R205, 92_eei_decisions.md D27: whatever turns are scheduled, a sequence in progress reaches
COUNTING within as many steps as there are turns and write steps left, unless the platform is reset. It rests on log 2 (the
sequencer moves where no turn is left) and log 4 (it moves in place of a context that waits). -/
def Obligations.SequenceReachesCounting : Prop :=
  ∀ s : State, s.params.timBase.toNat % 4 = 0 → s.seq.phase.pending.isSome = true →
    (∀ turn ∈ s.schedule, turn ≠ .platformReset) →
    ∃ n t, n ≤ s.schedule.length + 6 ∧ core.run n s = .next t ∧ t.seq.phase = .counting
end

