-- ==== Sys2Proof/Laws/State.lean ====
section
/-! SUPPORT. What each update of State does to each field, so that no proof unfolds a record update. -/

namespace Sys2Proof.Machine

/-! The refusal (60_exceptions.md R163). -/

@[simp] theorem refuse_params (e : RefuseReason) (s : State) : (refuse e s).params = s.params := rfl
@[simp] theorem refuse_seq (e : RefuseReason) (s : State) : (refuse e s).seq = { s.seq with refused := true } := rfl
@[simp] theorem refuse_tim (e : RefuseReason) (s : State) : (refuse e s).tim = s.tim := rfl
@[simp] theorem refuse_premises (e : RefuseReason) (s : State) : (refuse e s).premises = s.premises := rfl
@[simp] theorem refuse_waiting (e : RefuseReason) (s : State) : (refuse e s).waiting = s.waiting := rfl
@[simp] theorem refuse_caller (e : RefuseReason) (s : State) : (refuse e s).caller = s.caller := rfl
@[simp] theorem refuse_responses (e : RefuseReason) (s : State) : (refuse e s).responses = s.responses := rfl
@[simp] theorem refuse_reasons (e : RefuseReason) (s : State) : (refuse e s).reasons = s.reasons ++ [e] := rfl
@[simp] theorem refuse_schedule (e : RefuseReason) (s : State) : (refuse e s).schedule = s.schedule := rfl
@[simp] theorem refuse_draws (e : RefuseReason) (s : State) : (refuse e s).draws = s.draws := rfl

/-! Draws used up. -/

@[simp] theorem skipDraws_params (n : Nat) (s : State) : (skipDraws n s).params = s.params := rfl
@[simp] theorem skipDraws_seq (n : Nat) (s : State) : (skipDraws n s).seq = s.seq := rfl
@[simp] theorem skipDraws_tim (n : Nat) (s : State) : (skipDraws n s).tim = s.tim := rfl
@[simp] theorem skipDraws_premises (n : Nat) (s : State) : (skipDraws n s).premises = s.premises := rfl
@[simp] theorem skipDraws_waiting (n : Nat) (s : State) : (skipDraws n s).waiting = s.waiting := rfl
@[simp] theorem skipDraws_caller (n : Nat) (s : State) : (skipDraws n s).caller = s.caller := rfl
@[simp] theorem skipDraws_responses (n : Nat) (s : State) : (skipDraws n s).responses = s.responses := rfl
@[simp] theorem skipDraws_reasons (n : Nat) (s : State) : (skipDraws n s).reasons = s.reasons := rfl
@[simp] theorem skipDraws_schedule (n : Nat) (s : State) : (skipDraws n s).schedule = s.schedule := rfl
@[simp] theorem skipDraws_draws (n : Nat) (s : State) : (skipDraws n s).draws = s.draws + n := rfl

/-! The response channel (30_encoding.md R82). -/

@[simp] theorem respond_params (v : Word) (s : State) : (respond v s).params = s.params := rfl
@[simp] theorem respond_seq (v : Word) (s : State) : (respond v s).seq = s.seq := rfl
@[simp] theorem respond_tim (v : Word) (s : State) : (respond v s).tim = s.tim := rfl
@[simp] theorem respond_premises (v : Word) (s : State) : (respond v s).premises = s.premises := rfl
@[simp] theorem respond_waiting (v : Word) (s : State) : (respond v s).waiting = s.waiting := rfl
@[simp] theorem respond_caller (v : Word) (s : State) : (respond v s).caller = s.caller := rfl
@[simp] theorem respond_responses (v : Word) (s : State) : (respond v s).responses = s.responses ++ [⟨s.caller, v⟩] := rfl
@[simp] theorem respond_reasons (v : Word) (s : State) : (respond v s).reasons = s.reasons := rfl
@[simp] theorem respond_schedule (v : Word) (s : State) : (respond v s).schedule = s.schedule := rfl
@[simp] theorem respond_draws (v : Word) (s : State) : (respond v s).draws = s.draws := rfl

/-! The write log (10_state.md R26). -/

@[simp] theorem logWrite_params (e : LogEntry) (s : State) : (logWrite e s).params = s.params := rfl
@[simp] theorem logWrite_seq (e : LogEntry) (s : State) : (logWrite e s).seq = { s.seq with log := s.seq.log ++ [e] } := rfl
@[simp] theorem logWrite_tim (e : LogEntry) (s : State) : (logWrite e s).tim = s.tim := rfl
@[simp] theorem logWrite_premises (e : LogEntry) (s : State) : (logWrite e s).premises = s.premises := rfl
@[simp] theorem logWrite_waiting (e : LogEntry) (s : State) : (logWrite e s).waiting = s.waiting := rfl
@[simp] theorem logWrite_caller (e : LogEntry) (s : State) : (logWrite e s).caller = s.caller := rfl
@[simp] theorem logWrite_responses (e : LogEntry) (s : State) : (logWrite e s).responses = s.responses := rfl
@[simp] theorem logWrite_reasons (e : LogEntry) (s : State) : (logWrite e s).reasons = s.reasons := rfl
@[simp] theorem logWrite_schedule (e : LogEntry) (s : State) : (logWrite e s).schedule = s.schedule := rfl
@[simp] theorem logWrite_draws (e : LogEntry) (s : State) : (logWrite e s).draws = s.draws := rfl

/-! The counter field (10_state.md R36). -/

@[simp] theorem setCount_params (v : Word) (s : State) : (setCount v s).params = s.params := rfl
@[simp] theorem setCount_seq (v : Word) (s : State) : (setCount v s).seq = s.seq := rfl
@[simp] theorem setCount_tim (v : Word) (s : State) : (setCount v s).tim = { s.tim with cnt := (s.tim.cnt &&& ~~~cntMask s.params) ||| (v &&& cntMask s.params) } := rfl
@[simp] theorem setCount_premises (v : Word) (s : State) : (setCount v s).premises = s.premises := rfl
@[simp] theorem setCount_waiting (v : Word) (s : State) : (setCount v s).waiting = s.waiting := rfl
@[simp] theorem setCount_caller (v : Word) (s : State) : (setCount v s).caller = s.caller := rfl
@[simp] theorem setCount_responses (v : Word) (s : State) : (setCount v s).responses = s.responses := rfl
@[simp] theorem setCount_reasons (v : Word) (s : State) : (setCount v s).reasons = s.reasons := rfl
@[simp] theorem setCount_schedule (v : Word) (s : State) : (setCount v s).schedule = s.schedule := rfl
@[simp] theorem setCount_draws (v : Word) (s : State) : (setCount v s).draws = s.draws := rfl

/-! CONFIGURE accepted (40_configure.md R110). -/

@[simp] theorem acceptOptions_params (m : BitVec 4) (a : BitVec 16) (s : State) : (acceptOptions m a s).params = s.params := rfl
@[simp] theorem acceptOptions_seq (m : BitVec 4) (a : BitVec 16) (s : State) : (acceptOptions m a s).seq = { s.seq with mode := some m, arr := some a, phase := .seq1 } := rfl
@[simp] theorem acceptOptions_tim (m : BitVec 4) (a : BitVec 16) (s : State) : (acceptOptions m a s).tim = s.tim := rfl
@[simp] theorem acceptOptions_premises (m : BitVec 4) (a : BitVec 16) (s : State) : (acceptOptions m a s).premises = s.premises := rfl
@[simp] theorem acceptOptions_waiting (m : BitVec 4) (a : BitVec 16) (s : State) : (acceptOptions m a s).waiting = some s.caller := rfl
@[simp] theorem acceptOptions_caller (m : BitVec 4) (a : BitVec 16) (s : State) : (acceptOptions m a s).caller = s.caller := rfl
@[simp] theorem acceptOptions_responses (m : BitVec 4) (a : BitVec 16) (s : State) : (acceptOptions m a s).responses = s.responses := rfl
@[simp] theorem acceptOptions_reasons (m : BitVec 4) (a : BitVec 16) (s : State) : (acceptOptions m a s).reasons = s.reasons := rfl
@[simp] theorem acceptOptions_schedule (m : BitVec 4) (a : BitVec 16) (s : State) : (acceptOptions m a s).schedule = s.schedule := rfl
@[simp] theorem acceptOptions_draws (m : BitVec 4) (a : BitVec 16) (s : State) : (acceptOptions m a s).draws = s.draws := rfl

/-! The end of a write step (40_configure.md R111). -/

@[simp] theorem finishStep_params (k : WriteStep) (s : State) : (finishStep k s).params = s.params := rfl
@[simp] theorem finishStep_seq (k : WriteStep) (s : State) : (finishStep k s).seq = { s.seq with phase := k.next } := rfl
@[simp] theorem finishStep_tim (k : WriteStep) (s : State) : (finishStep k s).tim = s.tim := rfl
@[simp] theorem finishStep_premises (k : WriteStep) (s : State) : (finishStep k s).premises = s.premises := rfl
@[simp] theorem finishStep_waiting (k : WriteStep) (s : State) : (finishStep k s).waiting = if k.next = .counting then none else s.waiting := rfl
@[simp] theorem finishStep_caller (k : WriteStep) (s : State) : (finishStep k s).caller = s.caller := rfl
@[simp] theorem finishStep_responses (k : WriteStep) (s : State) : (finishStep k s).responses = s.responses := rfl
@[simp] theorem finishStep_reasons (k : WriteStep) (s : State) : (finishStep k s).reasons = s.reasons := rfl
@[simp] theorem finishStep_schedule (k : WriteStep) (s : State) : (finishStep k s).schedule = s.schedule := rfl
@[simp] theorem finishStep_draws (k : WriteStep) (s : State) : (finishStep k s).draws = s.draws := rfl

/-! A turn taken. -/

@[simp] theorem takeTurn_params (rest : List Turn) (s : State) : (takeTurn rest s).params = s.params := rfl
@[simp] theorem takeTurn_seq (rest : List Turn) (s : State) : (takeTurn rest s).seq = s.seq := rfl
@[simp] theorem takeTurn_tim (rest : List Turn) (s : State) : (takeTurn rest s).tim = s.tim := rfl
@[simp] theorem takeTurn_premises (rest : List Turn) (s : State) : (takeTurn rest s).premises = s.premises := rfl
@[simp] theorem takeTurn_waiting (rest : List Turn) (s : State) : (takeTurn rest s).waiting = s.waiting := rfl
@[simp] theorem takeTurn_caller (rest : List Turn) (s : State) : (takeTurn rest s).caller = s.caller := rfl
@[simp] theorem takeTurn_responses (rest : List Turn) (s : State) : (takeTurn rest s).responses = s.responses := rfl
@[simp] theorem takeTurn_reasons (rest : List Turn) (s : State) : (takeTurn rest s).reasons = s.reasons := rfl
@[simp] theorem takeTurn_schedule (rest : List Turn) (s : State) : (takeTurn rest s).schedule = rest := rfl
@[simp] theorem takeTurn_draws (rest : List Turn) (s : State) : (takeTurn rest s).draws = s.draws := rfl

/-! A host context's turn taken. -/

@[simp] theorem takeCommand_params (c : Nat) (rest : List Turn) (s : State) : (takeCommand c rest s).params = s.params := rfl
@[simp] theorem takeCommand_seq (c : Nat) (rest : List Turn) (s : State) : (takeCommand c rest s).seq = s.seq := rfl
@[simp] theorem takeCommand_tim (c : Nat) (rest : List Turn) (s : State) : (takeCommand c rest s).tim = s.tim := rfl
@[simp] theorem takeCommand_premises (c : Nat) (rest : List Turn) (s : State) : (takeCommand c rest s).premises = s.premises := rfl
@[simp] theorem takeCommand_waiting (c : Nat) (rest : List Turn) (s : State) : (takeCommand c rest s).waiting = s.waiting := rfl
@[simp] theorem takeCommand_caller (c : Nat) (rest : List Turn) (s : State) : (takeCommand c rest s).caller = c := rfl
@[simp] theorem takeCommand_responses (c : Nat) (rest : List Turn) (s : State) : (takeCommand c rest s).responses = s.responses := rfl
@[simp] theorem takeCommand_reasons (c : Nat) (rest : List Turn) (s : State) : (takeCommand c rest s).reasons = s.reasons := rfl
@[simp] theorem takeCommand_schedule (c : Nat) (rest : List Turn) (s : State) : (takeCommand c rest s).schedule = rest := rfl
@[simp] theorem takeCommand_draws (c : Nat) (rest : List Turn) (s : State) : (takeCommand c rest s).draws = s.draws := rfl

/-! The platform reset (70_reset_and_hazards.md R191). -/

@[simp] theorem platformReset_params (s : State) : (platformReset s).params = s.params := rfl
@[simp] theorem platformReset_seq (s : State) : (platformReset s).seq = Sequencer.reset := rfl
@[simp] theorem platformReset_tim (s : State) : (platformReset s).tim = drawnTimer s.params s.draws := rfl
@[simp] theorem platformReset_premises (s : State) : (platformReset s).premises = drawnPremises (s.draws + 6) := rfl
@[simp] theorem platformReset_waiting (s : State) : (platformReset s).waiting = none := rfl
@[simp] theorem platformReset_caller (s : State) : (platformReset s).caller = s.caller := rfl
@[simp] theorem platformReset_responses (s : State) : (platformReset s).responses = s.responses := rfl
@[simp] theorem platformReset_reasons (s : State) : (platformReset s).reasons = [] := rfl
@[simp] theorem platformReset_schedule (s : State) : (platformReset s).schedule = s.schedule := rfl
@[simp] theorem platformReset_draws (s : State) : (platformReset s).draws = s.draws + 7 := rfl

end Sys2Proof.Machine
end

