-- ==== Sys2Proof/Laws/Ops.lean ====
section
/-! SUPPORT. What each shared operation can do, once: register access, the merge of a field write, the field write, the
write step, the sequencer's step and the counter's step. Later proofs cite these and do not unfold the operations. -/

namespace Sys2Proof.Machine

/-! Register access. -/

@[simp] theorem get_set_same (t : Timer) (r : Reg) (v : Word) : (t.set r v).get r = v := by
  cases r <;> rfl

@[simp] theorem get_set_other (t : Timer) {r q : Reg} (v : Word) (h : q ≠ r) : (t.set r v).get q = t.get q := by
  cases r <;> cases q <;> first | rfl | exact absurd rfl h

/-- Every register of a well-formed block is aligned (20_memory.md R65). -/
theorem isAligned_of_wellFormed {p : Params} (h : p.wellFormed = true) (r : Reg) : isAligned (busAddr p r) = true := by
  simp only [Params.wellFormed, beq_iff_eq] at h
  cases r <;> simp only [isAligned, busAddr, Reg.offset, BitVec.toNat_add, beq_iff_eq] <;>
    simp <;> omega

theorem memRead_eq {s : State} (h : s.params.wellFormed = true) (r : Reg) : memRead r s = .done (s.tim.get r) := by
  simp [memRead, isAligned_of_wellFormed h]

theorem memWrite_eq {s : State} (h : s.params.wellFormed = true) (r : Reg) (v : Word) :
    memWrite r v s = .done { s with tim := s.tim.set r v } := by
  simp [memWrite, isAligned_of_wellFormed h]

theorem memRead_stop {s : State} {r : Reg} {e : RefuseReason} (h : memRead r s = .stop e) : e = .misaligned := by
  unfold memRead at h
  split at h <;> cases h
  rfl

/-! The merge of a field write. -/

/-- A field inside the mask holds the value written, under either setting of OTHER_BITS (20_memory.md R64). -/
theorem mergeBits_and_inside (ob : OtherBits) (d old m kept v f : Word) (h : f &&& ~~~m = 0) (hk : f &&& kept = 0) :
    mergeBits ob d old m kept v &&& f = v &&& f := by
  have hb : ∀ i (hi : i < 32), f[i] = true → m[i] = true ∧ kept[i] = false := by
    intro i hi hf
    have h1 := congrArg (fun w : Word => w[i]) h
    have h2 := congrArg (fun w : Word => w[i]) hk
    constructor
    · simpa [hf] using h1
    · simpa [hf] using h2
  cases ob <;> ext i hi <;> simp only [mergeBits] <;> simp <;> have := hb i hi <;>
    cases hf : f[i] <;> simp_all

/-- Under PRESERVE the bits outside the mask keep their value (20_memory.md R64). -/
theorem mergeBits_and_outside (d old m kept v f : Word) (h : f &&& m = 0) :
    mergeBits .preserve d old m kept v &&& f = old &&& f := by
  have hb : ∀ i (hi : i < 32), f[i] = true → m[i] = false := by
    intro i hi hf
    have := congrArg (fun w : Word => w[i]) h
    simpa [hf] using this
  ext i hi
  simp only [mergeBits]
  simp
  have := hb i hi
  cases hf : f[i] <;> simp_all

/-- A field of the kept mask outside the mask keeps its value under either setting (20_memory.md R64). -/
theorem mergeBits_and_kept (ob : OtherBits) (d old m kept v f : Word) (h : f &&& m = 0) (hk : f &&& ~~~kept = 0) :
    mergeBits ob d old m kept v &&& f = old &&& f := by
  cases ob with
  | preserve => exact mergeBits_and_outside d old m kept v f h
  | any =>
    have hb : ∀ i (hi : i < 32), f[i] = true → m[i] = false ∧ kept[i] = true := by
      intro i hi hf
      have h1 := congrArg (fun w : Word => w[i]) h
      have h2 := congrArg (fun w : Word => w[i]) hk
      constructor
      · simpa [hf] using h1
      · simpa [hf] using h2
    ext i hi
    simp only [mergeBits]
    simp
    have := hb i hi
    cases hf : f[i] <;> simp_all

/-! The rows of the write steps (30_encoding.md R96; 90_conflicts.md C5 for the kept masks). -/

theorem keptMask_eq (k : WriteStep) :
    k.keptMask = match k with | .w2 => 0x00000003#32 | .w4 => 0x0000000A#32 | _ => 0#32 := by
  cases k <;> decide

theorem maskOf_fields (c : BitVec 4) (k : WriteStep) :
    maskOf (k.fields c) = match k with
      | .w1 => 0x00000003#32 | .w2 => 0x00000300#32 | .w3 => 0x0000000A#32
      | .w4 => 0x000000A0#32 | .w5 => 0x00010007#32 | .w6 => 0x00000001#32 := by
  cases k <;> simp [WriteStep.fields, maskOf, Field.mask, Field.width, Field.lsb]

/-! The field write and the write step. -/

/-- The state a field write ends in (20_memory.md R64). -/
def afterWrite (r : Reg) (kept : Word) (fs : List (Field × Word)) (s : State) : State :=
  { s with
    tim := s.tim.set r
      (mergeBits s.params.otherBits (Config.freeWord s.draws) (s.tim.get r) (maskOf fs) kept (valueOf fs))
    seq := { s.seq with log := s.seq.log ++ [⟨r, fs⟩] }
    draws := s.draws + drawsOfWrite s.params }

/-- All a field write can do: the merge and the log entry, or a stop with MISALIGNED (20_memory.md R64, R65). -/
theorem fieldWrite_cases (r : Reg) (kept : Word) (fs : List (Field × Word)) (s : State) :
    fieldWrite r kept fs s =
      if isAligned (busAddr s.params r) then .done (afterWrite r kept fs s) else .stop .misaligned := by
  unfold fieldWrite memRead memWrite
  by_cases h : isAligned (busAddr s.params r) = true
  · simp only [h, if_true]
    rfl
  · simp [h]

/-- The state a write step ends in. -/
def afterStep (k : WriteStep) (s : State) : State :=
  finishStep k (afterWrite k.reg k.keptMask (k.fields (latchedCode s)) s)

/-- All a write step can do (40_configure.md R111). -/
theorem writeStep_cases (k : WriteStep) (s : State) :
    writeStep k s = if isAligned (busAddr s.params k.reg) then .done (afterStep k s) else .stop .misaligned := by
  unfold writeStep
  rw [fieldWrite_cases]
  by_cases h : isAligned (busAddr s.params k.reg) = true
  · simp [h, afterStep]
  · simp [h]

/-- All the sequencer's step can do: no step, the pending write step, or a refusal (40_configure.md R111). -/
theorem sequencerStep_cases (s : State) :
    (s.seq.phase.pending = none ∧ sequencerStep s = s) ∨
    (∃ k, s.seq.phase.pending = some k ∧ isAligned (busAddr s.params k.reg) = true ∧ sequencerStep s = afterStep k s) ∨
    (∃ k, s.seq.phase.pending = some k ∧ isAligned (busAddr s.params k.reg) = false ∧
      sequencerStep s = refuse .misaligned s) := by
  unfold sequencerStep
  cases hp : s.seq.phase.pending with
  | none => exact .inl ⟨rfl, rfl⟩
  | some k =>
    cases h : isAligned (busAddr s.params k.reg) with
    | true => exact .inr (.inl ⟨k, rfl, h, by simp [writeStep_cases, h]⟩)
    | false => exact .inr (.inr ⟨k, rfl, h, by simp [writeStep_cases, h]⟩)

/-- In a well-formed block the pending write step is taken. -/
theorem sequencerStep_eq {s : State} {k : WriteStep} (hw : s.params.wellFormed = true)
    (hp : s.seq.phase.pending = some k) : sequencerStep s = afterStep k s := by
  unfold sequencerStep
  simp [hp, writeStep_cases, isAligned_of_wellFormed hw]

/-! What the rows of the steps say of their fields, for every mode code. -/

/-- A step's placed value read through one of its fields is the value the row gives that field, and the field lies inside
the step's mask and outside the kept mask. -/
theorem fields_value (k : WriteStep) (c : BitVec 4) : ∀ e ∈ k.fields c,
    (valueOf (k.fields c) &&& e.1.mask) >>> e.1.lsb = e.2 ∧
    e.1.mask &&& ~~~maskOf (k.fields c) = 0 ∧ e.1.mask &&& k.keptMask = 0 := by
  revert c
  cases k <;> decide

/-- A field an earlier step wrote in the same register lies outside the step's mask and inside the kept mask. -/
theorem fields_kept (k j : WriteStep) (hj : j ∈ k.earlier) (hr : j.reg = k.reg) (c : BitVec 4) : ∀ e ∈ j.fields c,
    e.1.mask &&& maskOf (k.fields c) = 0 ∧ e.1.mask &&& ~~~k.keptMask = 0 := by
  revert hj hr c
  cases k <;> cases j <;> decide

/-- The pending step follows the steps taken. -/
theorem done_next {p : Phase} {k : WriteStep} (h : p.pending = some k) :
    k.next.done = p.done ++ [k] ∧ k.earlier = p.done := by
  cases p <;> cases k <;> first
    | exact ⟨rfl, rfl⟩
    | exact absurd h (by decide)

/-- A write step leaves every other register. -/
theorem afterStep_get_other (k : WriteStep) (s : State) {r : Reg} (h : r ≠ k.reg) :
    (afterStep k s).tim.get r = s.tim.get r := by
  simp [afterStep, afterWrite, h]

/-- The register a write step writes. -/
theorem afterStep_get_same (k : WriteStep) (s : State) :
    (afterStep k s).tim.get k.reg =
      mergeBits s.params.otherBits (Config.freeWord s.draws) (s.tim.get k.reg) (maskOf (k.fields (latchedCode s)))
        k.keptMask (valueOf (k.fields (latchedCode s))) := by
  simp [afterStep, afterWrite]

/-! The counter's step. -/

/-- All the counter's step can do: it changes the counter field and the draw index, and nothing else
(60_exceptions.md R167). -/
theorem countStep_cases (dir : CountDir) (s : State) :
    (cen s = false ∧ countStep dir s = s) ∨
    (cen s = true ∧ ∃ v n, countStep dir s = skipDraws n (setCount v s)) := by
  unfold countStep
  cases h : cen s with
  | false => exact .inl ⟨rfl, by simp⟩
  | true =>
    refine .inr ⟨rfl, ?_⟩
    by_cases hle : (countOf s).toNat ≤ (reloadOf s).toNat
    · exact ⟨countedValue dir (reloadOf s) (countOf s), 0, by simp only [if_true, hle]; rfl⟩
    · exact ⟨Config.freeWord s.draws, 1, by simp [hle]⟩

/-- All the counter left to itself can do. -/
theorem freeCount_cases (s : State) :
    freeCount s = skipDraws 1 s ∨ ∃ dir, freeCount s = countStep dir (skipDraws 1 s) := by
  unfold freeCount
  by_cases h : (Config.freeWord s.draws).getLsbD 0 = true
  · exact .inr ⟨_, by simp only [h, if_true]; rfl⟩
  · exact .inl (by simp only [h]; rfl)

/-- The counter field after it is written. -/
theorem countOf_setCount (v : Word) (s : State) : countOf (setCount v s) = v &&& cntMask s.params := by
  unfold countOf
  simp only [setCount_tim, setCount_params]
  ext i hi
  simp
  cases (cntMask s.params)[i] <;> simp

/-- A count from a value within the boundary stays within it (60_exceptions.md R168). -/
theorem countedValue_le (dir : CountDir) {t c : Word} (h : c.toNat ≤ t.toNat) :
    (countedValue dir t c).toNat ≤ t.toNat := by
  have ht := t.isLt
  cases dir <;> simp only [countedValue] <;> split
  · simp
  · rename_i hne
    have : c.toNat ≠ t.toNat := fun e => hne (BitVec.eq_of_toNat_eq e)
    rw [BitVec.toNat_add]
    simp
    omega
  · omega
  · rename_i hne
    have : c.toNat ≠ 0 := fun e => hne (BitVec.eq_of_toNat_eq (by simpa using e))
    rw [BitVec.toNat_sub]
    simp
    omega

end Sys2Proof.Machine
end

