-- ==== Sys2Proof/Laws/PerInstr.lean ====
section
/-! SUPPORT. A statement about every instruction as syntax: its command word carries the match value of its row of the
opcode table under the row's mask (30_encoding.md R81). -/

namespace Sys2Proof.Laws.OpcodeMatch

/-- The word of an instruction matches its row of spec/opcode_table.json. -/
def Statement (i : Instr) : Prop := encode i &&& tableMask i = tableMatch i

theorem configure (mode : BitVec 4) (arr : BitVec 16) : Statement (.configure mode arr) := by
  unfold Statement encode tableMask tableMatch
  ext j hj
  interval_cases j <;> simp

theorem read : Statement .read := by
  unfold Statement
  decide

end Sys2Proof.Laws.OpcodeMatch
end

