-- ==== Sys2Proof/Laws/Step.lean ====
section
/-! SUPPORT. What the meanings and one step of the machine can do, once each. -/

namespace Sys2Proof.Machine

/-- All CONFIGURE can do (40_configure.md R110). -/
theorem execConfigure_cases (m : BitVec 4) (a : BitVec 16) (s : State) :
    (s.seq.phase = .notConfigured ∧ launchPremisesHold s = true ∧ execConfigure m a s = .next (acceptOptions m a s)) ∨
    (s.seq.phase = .notConfigured ∧ launchPremisesHold s = false ∧
      execConfigure m a s = .next (refuse .premiseViolated s)) ∨
    (s.seq.phase ≠ .notConfigured ∧ execConfigure m a s = .next (refuse .configureNotIdle s)) := by
  unfold execConfigure
  by_cases hp : s.seq.phase = .notConfigured
  · cases hl : launchPremisesHold s with
    | true => exact .inl ⟨hp, rfl, by simp [hp]⟩
    | false => exact .inr (.inl ⟨hp, rfl, by simp [hp]⟩)
  · exact .inr (.inr ⟨hp, by simp [hp]⟩)

/-- All READ can do (41_read.md R140, R145; 20_memory.md R65). -/
theorem execRead_cases (s : State) :
    (s.seq.phase = .counting ∧ isAligned (busAddr s.params .cnt) = true ∧
      execRead s = .next (respond (readResult s.params s.tim.cnt) s)) ∨
    (s.seq.phase = .counting ∧ isAligned (busAddr s.params .cnt) = false ∧
      execRead s = .next (refuse .misaligned s)) ∨
    (s.seq.phase ≠ .counting ∧ execRead s = .next (refuse .noHandle s)) := by
  unfold execRead memRead
  by_cases hp : s.seq.phase = .counting
  · cases ha : isAligned (busAddr s.params .cnt) with
    | true => exact .inl ⟨hp, rfl, by simp [hp]; rfl⟩
    | false => exact .inr (.inl ⟨hp, rfl, by simp [hp]⟩)
  · exact .inr (.inr ⟨hp, by simp [hp]⟩)

/-- All a host command can do, from a state whose caller is set: a refusal, options accepted from NOT_CONFIGURED, or a
response in COUNTING. -/
theorem hostCommand_cases (w : Word) (s : State) :
    (∃ e, hostCommand w s = .next (refuse e s)) ∨
    (∃ m a, s.seq.phase = .notConfigured ∧ launchPremisesHold s = true ∧
      hostCommand w s = .next (acceptOptions m a s)) ∨
    (s.seq.phase = .counting ∧ hostCommand w s = .next (respond (readResult s.params s.tim.cnt) s)) := by
  unfold hostCommand
  cases hd : decode w with
  | reserved u => exact .inl ⟨_, rfl⟩
  | command i =>
    cases i with
    | configure m a =>
      show (∃ e, execConfigure m a s = _) ∨ _
      rcases execConfigure_cases m a s with ⟨hp, hl, h⟩ | ⟨-, -, h⟩ | ⟨-, h⟩
      · exact .inr (.inl ⟨m, a, hp, hl, h⟩)
      · exact .inl ⟨_, h⟩
      · exact .inl ⟨_, h⟩
    | read =>
      show (∃ e, execRead s = _) ∨ _
      rcases execRead_cases s with ⟨hp, -, h⟩ | ⟨-, -, h⟩ | ⟨-, h⟩
      · exact .inr (.inr ⟨hp, h⟩)
      · exact .inl ⟨_, h⟩
      · exact .inl ⟨_, h⟩

/-- All that can move when no turn is scheduled. -/
theorem idleStep_cases (s : State) :
    idleStep s = sequencerStep s ∨ idleStep s = s ∨
    (inSequence s = false ∧ cen s = true ∧
      (idleStep s = skipDraws 1 s ∨ ∃ dir, idleStep s = countStep dir (skipDraws 1 s))) := by
  unfold idleStep
  cases hi : inSequence s with
  | true => exact .inl (by simp)
  | false =>
    cases hc : cen s with
    | false => exact .inr (.inl (by simp))
    | true => exact .inr (.inr ⟨rfl, rfl, by simpa using freeCount_cases s⟩)

/-- All one step of the machine can do: a move of the sequencer, of the counter, a host command, a platform reset, or
only the scheduling fields change. `u` is the state with the turn taken. -/
theorem step_cases {s t : State} (h : step s = .next t) :
    ∃ u, u.params = s.params ∧ u.seq = s.seq ∧ u.tim = s.tim ∧ u.premises = s.premises ∧ u.waiting = s.waiting ∧
      u.responses = s.responses ∧ u.reasons = s.reasons ∧
      (t = u ∨ t = sequencerStep u ∨ (∃ dir, t = countStep dir u) ∨ (∃ e, t = refuse e u) ∨
        (∃ m a, u.seq.phase = .notConfigured ∧ launchPremisesHold u = true ∧ t = acceptOptions m a u) ∨
        (u.seq.phase = .counting ∧ t = respond (readResult u.params u.tim.cnt) u) ∨
        ((∃ rest, s.schedule = .platformReset :: rest) ∧ t = platformReset u)) := by
  unfold step advance at h
  split at h
  · cases h
    rcases idleStep_cases s with h1 | h1 | ⟨-, -, h1 | ⟨dir, h1⟩⟩
    · exact ⟨s, rfl, rfl, rfl, rfl, rfl, rfl, rfl, .inr (.inl h1)⟩
    · exact ⟨s, rfl, rfl, rfl, rfl, rfl, rfl, rfl, .inl h1⟩
    · exact ⟨skipDraws 1 s, rfl, rfl, rfl, rfl, rfl, rfl, rfl, .inl h1⟩
    · exact ⟨skipDraws 1 s, rfl, rfl, rfl, rfl, rfl, rfl, rfl, .inr (.inr (.inl ⟨dir, h1⟩))⟩
  · rename_i ctx w rest hs
    split at h
    · cases h
      exact ⟨s, rfl, rfl, rfl, rfl, rfl, rfl, rfl, .inr (.inl rfl)⟩
    · refine ⟨takeCommand ctx rest s, rfl, rfl, rfl, rfl, rfl, rfl, rfl, ?_⟩
      rcases hostCommand_cases w (takeCommand ctx rest s) with ⟨e, h1⟩ | ⟨m, a, hp, hl, h1⟩ | ⟨hp, h1⟩ <;>
        rw [h1] at h <;> cases h
      · exact .inr (.inr (.inr (.inl ⟨e, rfl⟩)))
      · exact .inr (.inr (.inr (.inr (.inl ⟨m, a, hp, hl, rfl⟩))))
      · exact .inr (.inr (.inr (.inr (.inr (.inl ⟨hp, rfl⟩)))))
  · rename_i rest hs
    cases h
    exact ⟨takeTurn rest s, rfl, rfl, rfl, rfl, rfl, rfl, rfl, .inr (.inl rfl)⟩
  · rename_i dir rest hs
    cases h
    exact ⟨takeTurn rest s, rfl, rfl, rfl, rfl, rfl, rfl, rfl, .inr (.inr (.inl ⟨dir, rfl⟩))⟩
  · rename_i rest hs
    cases h
    exact ⟨takeTurn rest s, rfl, rfl, rfl, rfl, rfl, rfl, rfl,
      .inr (.inr (.inr (.inr (.inr (.inr ⟨⟨rest, hs⟩, rfl⟩)))))⟩

end Sys2Proof.Machine
end

