-- ==== Sys2Proof/Tests/Slice0.lean ====
section
/-! SUPPORT. The model's own tests: expected values are the tables of 95_test_vectors.md and the worked examples of the
rules named; then one witness for every statement that has hypotheses. -/

namespace Sys2Proof.Tests

open Sys2Proof.Machine

/-! Helpers. -/

/-- The state after one step. -/
def after (s : State) : State :=
  match step s with
  | .next t => t
  | _ => s

/-- A state in a phase, with given timer registers and a latched code where the phase has one. -/
def inPhase (p : Phase) (t : Timer) : State :=
  { State.reset with
    seq := { State.reset.seq with
      phase := p
      mode := if p = .notConfigured then none else some 0xA
      arr := if p = .notConfigured then none else some 0x400 }
    tim := t }

/-- All four written registers, CNT and ARR. -/
def regs (cr1 smcr ccmr1 ccer cnt arr : Word) : Timer := ⟨cr1, smcr, ccmr1, ccer, cnt, arr⟩

/-- A state in which host context 0 issues a word next. -/
def issuing (w : Word) (s : State) : State := { s with schedule := [.host 0 w] }

/-- A counting timer. -/
def counting (cnt arr : Word) : State := inPhase .counting (regs 1 3 0x101 0 cnt arr)

/-- The same with a 32-bit counter. -/
def counting32 (rw : ReadWidth) (cnt arr : Word) : State :=
  { counting cnt arr with params := { Params.default with cntWidth := .w32, readWidth := rw } }

/-- The same with a 16-bit counter read at its native width. -/
def counting16native (cnt : Word) : State :=
  { counting cnt 0xFFFF with params := { Params.default with readWidth := .native } }

/-- A state in a phase under OTHER_BITS = ANY, every register all ones. -/
def underAny (p : Phase) : State :=
  { inPhase p (regs 0xFFFFFFFF 0xFFFFFFFF 0xFFFFFFFF 0xFFFFFFFF 0 0xFFFF) with
    params := { Params.default with otherBits := .any } }

/-! Well-formedness: the one check there is refuses an ill-formed term (20_memory.md R65). -/

theorem test_params_wellFormed : Params.default.wellFormed = true := by decide
theorem test_params_illFormed : ({ Params.default with timBase := 0x40000402#32 } : Params).wellFormed = false := by decide
theorem test_instr_wellFormed : (Instr.configure 0 0).wellFormed = true := by decide

/-! Decoding: words written out bit by bit from 30_encoding.md R81; reserved words of 95_test_vectors.md 2.1. -/

theorem test_decode_configure :
    decode 0b0001_00000000_1010_0000010000000000#32 = .command (.configure 0xA 0x0400) := by decide
theorem test_decode_configure_all_ones :
    decode 0b0001_00000000_1111_1111111111111111#32 = .command (.configure 0xF 0xFFFF) := by decide
theorem test_decode_read : decode 0b0010_0000000000000000000000000000#32 = .command .read := by decide
theorem test_decode_reserved_rsv1 : decode 0x1010FFFF#32 = .reserved 0x1010FFFF#32 := by decide
theorem test_decode_reserved_zero : decode 0x00000000#32 = .reserved 0x00000000#32 := by decide
theorem test_decode_reserved_op3 : decode 0x30000000#32 = .reserved 0x30000000#32 := by decide
theorem test_decode_reserved_opF : decode 0xF0000000#32 = .reserved 0xF0000000#32 := by decide
theorem test_encode_default : encode (optionsCommand defaultOptions) = 0x1003FFFF#32 := by decide
theorem test_decodeTableWord : decodeTableWord 32 0x100A0400 = some (.configure 0xA 0x0400) := by decide

/-! The masks of 30_encoding.md R96, and V-SPLIT of 95_test_vectors.md 2.2. -/

theorem test_masks : [WriteStep.w1, .w2, .w3, .w4, .w5, .w6].map (fun k => maskOf (k.fields 0)) =
    [0x00000003#32, 0x00000300#32, 0x0000000A#32, 0x000000A0#32, 0x00010007#32, 0x00000001#32] := by decide
theorem test_kept : WriteStep.w2.keptMask = 0x3#32 ∧ WriteStep.w4.keptMask = 0xA#32 := by decide
theorem test_split_5 : valueOf (WriteStep.w5.fields 0x5) = 0x00000005#32 := by decide
theorem test_split_D : valueOf (WriteStep.w5.fields 0xD) = 0x00010005#32 := by decide
theorem test_slave_modes : slaveModes.map SlaveMode.code =
    [0x0, 0x1, 0x2, 0x3, 0x4, 0x5, 0x6, 0x7, 0x8, 0x9, 0xA, 0xB, 0xC, 0xD, 0xE, 0xF] := by decide

theorem test_slave_mode_of : slaveModeOf 0x9 = .combinedGatedReset ∧ joinCode 1 0b010 = 0xA#4 := by decide

/-! The write steps: 95_test_vectors.md 2.3, 2.2 and program P2. -/

theorem test_w1 : (after (inPhase .seq1 (regs 0 0 0xFFFFFFFF 0 0 0))).tim.ccmr1 = 0xFFFFFFFD#32 := by decide
theorem test_w2 : (after (inPhase .seq2 (regs 0 0 0xFFFFFFFD 0 0 0))).tim.ccmr1 = 0xFFFFFDFD#32 := by decide
theorem test_w3 : (after (inPhase .seq3 (regs 0 0 0 0x0000000B 0 0))).tim.ccer = 0x00000001#32 := by decide
theorem test_w4 : (after (inPhase .seq4 (regs 0 0 0 0x000000F1 0 0))).tim.ccer = 0x00000051#32 := by decide
theorem test_w5 : (after (inPhase .seq5 (regs 0 0x00000070 0 0 0 0))).tim.smcr = 0x00010072#32 := by decide
theorem test_w5_clears : (after { inPhase .seq5 (regs 0 0x00010000 0 0 0 0) with
    seq := { State.reset.seq with phase := .seq5, mode := some 0x3, arr := some 0 } }).tim.smcr = 0x00000003#32 := by decide
theorem test_w6 : (after (inPhase .seq6 (regs 0x80 0 0 0 0 0))).tim.cr1 = 0x00000081#32 ∧
    (after (inPhase .seq6 (regs 0x80 0 0 0 0 0))).seq.phase = .counting := by decide
theorem test_w3_log : (after (inPhase .seq3 (regs 0 0 0 0 0 0))).seq.log = [⟨.ccer, [(.cc1p, 0), (.cc1np, 0)]⟩] := by decide

/-! CONFIGURE: 95_test_vectors.md 2.6. -/

theorem test_configure_accepted : (after (issuing 0x1003FFFF State.reset)).seq =
    ⟨.seq1, some 0x3, some 0xFFFF, false, []⟩ := by decide
theorem test_configure_premise : (after (issuing 0x1003FFFF (inPhase .notConfigured (regs 1 0 0 0 0 0)))).reasons =
    [.premiseViolated] := by decide
theorem test_configure_not_idle : (after (issuing 0x1003FFFF (inPhase .seq4 (regs 0 0 0 0 0 0)))).reasons =
    [.configureNotIdle] := by decide
theorem test_reserved_before_phase : (after (issuing 0x1010FFFF (counting 0 0))).reasons = [.reservedWord] := by decide

/-! READ: 95_test_vectors.md 2.4. -/

theorem test_read_16 : (after (issuing 0x20000000 (counting 0xFFFF 0xFFFF))).responses = [⟨0, 0x0000FFFF#32⟩] := by decide
theorem test_read_32_as_16 : (after (issuing 0x20000000 (counting32 .u16 0x1FFFF 0xFFFFFFFF))).responses =
    [⟨0, 0x0000FFFF#32⟩] := by decide
theorem test_read_32 : (after (issuing 0x20000000 (counting32 .native 0x1FFFF 0xFFFFFFFF))).responses =
    [⟨0, 0x0001FFFF#32⟩] := by decide
theorem test_read_no_handle : (after (issuing 0x20000000 (inPhase .seq3 (regs 0 0 0 0 0 0)))).reasons = [.noHandle] ∧
    (after (issuing 0x20000000 (inPhase .seq3 (regs 0 0 0 0 0 0)))).responses = [] := by decide

/-! The counter: 95_test_vectors.md 2.5. -/

theorem test_count_up : (countStep .up (counting 0x5 0xFFFF)).tim.cnt = 0x6#32 := by decide
theorem test_count_up_wraps : (countStep .up (counting 0x3 0x3)).tim.cnt = 0x0#32 := by decide
theorem test_count_down_wraps : (countStep .down (counting 0x0 0x3)).tim.cnt = 0x3#32 := by decide
theorem test_count_zero_reload : (countStep .down (counting 0x0 0x0)).tim.cnt = 0x0#32 := by decide
theorem test_count_32 : (countStep .up (counting32 .u16 0x1FFFF 0xFFFFFFFF)).tim.cnt = 0x20000#32 := by decide
theorem test_count_disabled : countStep .up (inPhase .seq3 (regs 0 0 0 0 5 9)) = inPhase .seq3 (regs 0 0 0 0 5 9) := by decide

/-! The byte view (20_memory.md R63, R69) and the host's words. -/

theorem test_byte : busByte (counting 0x1234 0xFFFF) 0x40000425#32 = some 0x12#8 := by decide
theorem test_byte_outside : busByte (counting 0x1234 0xFFFF) 0x40000428#32 = none := by decide
theorem test_withFetchWord : (after (State.reset.withFetchWord 32 0x10000000)).seq.mode = some 0x0 := by decide

/-! The assembler: 30_encoding.md R97, R98. -/

theorem test_asm_operands : parseLine "CONFIGURE mode=0xA, arr=0x0400 ; x".toList =
    some (.configure (some 0xA) (some 0x0400)) := by decide
theorem test_asm_name : parseLine "CONFIGURE mode=GatedMode".toList = some (.configure (some 0x5) none) := by decide
theorem test_asm_default : (parseLine "CONFIGURE.DEFAULT".toList).map (asmTurn 0) = some (.host 0 0x1003FFFF#32) := by decide
theorem test_asm_count : parseLine "COUNT down".toList = some (.count .down) := by decide
theorem test_asm_read : (parseLine "READ r0".toList).map (asmTurn 0) = some (.host 0 0x20000000#32) := by decide
theorem test_asm_read_alone : (parseLine "READ".toList).map (asmTurn 0) = some (.host 0 0x20000000#32) := by decide
theorem test_asm_bad : parseLine "CONFIGURE mode=16".toList = none := by decide

theorem test_asm_program : (parseProgram ["; P2".toList, "CONFIGURE mode=0xA, arr=0x0400".toList, "COUNT up".toList]).map
    (programTurns 0) = some (.host 0 0x100A0400#32 :: [.sequencer, .sequencer, .sequencer, .sequencer, .sequencer,
      .sequencer, .count .up]) := by decide

/-! Witnesses: states and operands that meet the hypotheses of each statement together. -/

/-- A state in the sequence in which context 0 waits. -/
def waitingState (w : Word) (p : Phase) : State :=
  { inPhase p (regs 0 0 0 0 0x1234 0xFFFF) with waiting := some 0, schedule := [.host 0 w] }

/-- A misaligned block. -/
def misaligned (p : Phase) : State :=
  { inPhase p (regs 1 0 0 0 0 0) with params := { Params.default with timBase := 0x40000401#32 } }

theorem witness_StepRunsTheDecodedCommand : ∃ i, (issuing 0x1003FFFF State.reset).schedule = .host 0 0x1003FFFF :: [] ∧
    isBlocked 0 (issuing 0x1003FFFF State.reset) = false ∧ decode 0x1003FFFF = .command i ∧ i.wellFormed = true :=
  ⟨.configure 3 0xFFFF, by decide⟩
theorem witness_BlockedCallerWaitsForTheSequencer : (waitingState 0x20000000 .seq1).schedule = .host 0 0x20000000 :: [] ∧
    (waitingState 0x20000000 .seq1).seq.phase.pending.isSome = true ∧ (waitingState 0x20000000 .seq1).waiting = some 0 := by
  decide
theorem witness_SequencerMovesAtItsTurn_scheduled :
    ({ State.reset with schedule := [.sequencer] } : State).schedule = .sequencer :: [] := by decide
theorem witness_SequencerMovesAtItsTurn_unscheduled : (inPhase .seq6 (regs 0 0 0 0 0 0)).schedule = [] ∧
    (inPhase .seq6 (regs 0 0 0 0 0 0)).seq.phase.pending.isSome = true := by decide
theorem witness_SequencerMovesAtItsTurn_disabled : State.reset.seq.phase.pending = none := by decide
theorem witness_DecodeReadsBackEveryCommand : (Instr.configure 0xF 0xFFFF).wellFormed = true := by decide
theorem witness_CommandHasOneWord : decode 0x20000000#32 = .command .read := by decide
theorem witness_ReservedWordsAreTheListedAndRefused : (issuing 0x1010FFFF (counting 0 0)).schedule = .host 0 0x1010FFFF :: [] ∧
    isBlocked 0 (issuing 0x1010FFFF (counting 0 0)) = false ∧ decode 0x1010FFFF#32 = .reserved 0x1010FFFF#32 := by decide
theorem witness_IssuedWordRunsNext : decode (BitVec.ofNat 32 0x20000000) = .command .read := by decide
theorem witness_ConfigureAcceptsOrRefuses_accepts : State.reset.seq.phase = .notConfigured ∧
    State.reset.premises = ⟨true, true, true⟩ ∧ getField .cen State.reset.tim.cr1 = 0 := by decide
theorem witness_ConfigureAcceptsOrRefuses_notIdle : (counting 0 0).seq.phase ≠ .notConfigured := by decide
theorem witness_ConfigureAcceptsOrRefuses_premise : (inPhase .notConfigured (regs 1 0 0 0 0 0)).seq.phase = .notConfigured ∧
    getField .cen (inPhase .notConfigured (regs 1 0 0 0 0 0)).tim.cr1 ≠ 0 := by decide
theorem witness_ConfigureAcceptsOrRefuses_pins :
    ({ State.reset with premises := ⟨true, false, true⟩ } : State).seq.phase = .notConfigured ∧
    ({ State.reset with premises := ⟨true, false, true⟩ } : State).premises ≠ ⟨true, true, true⟩ := by decide
theorem witness_ReadReturnsTheCounter : (counting 0x1234 0xFFFF).seq.phase = .counting ∧
    (counting 0x1234 0xFFFF).params.timBase.toNat % 4 = 0 ∧ (counting 0x1234 0xFFFF).params.readWidth = .u16 := by decide
theorem witness_ReadReturnsTheCounter_native16 : (counting16native 0x1234).seq.phase = .counting ∧
    (counting16native 0x1234).params.timBase.toNat % 4 = 0 ∧ (counting16native 0x1234).params.readWidth = .native ∧
    (counting16native 0x1234).params.cntWidth = .w16 := by decide
theorem witness_ReadReturnsTheCounter_native32 : (counting32 .native 0 0).seq.phase = .counting ∧
    (counting32 .native 0 0).params.timBase.toNat % 4 = 0 ∧ (counting32 .native 0 0).params.readWidth = .native ∧
    (counting32 .native 0 0).params.cntWidth = .w32 := by decide
theorem witness_ReadReturnsTheCounter_refused : State.reset.seq.phase ≠ .counting := by decide
theorem witness_ReadTwiceReturnsTheSame : (counting 0xFFFF 0xFFFF).seq.phase = .counting ∧
    (counting 0xFFFF 0xFFFF).params.timBase.toNat % 4 = 0 := by decide
/-- Two contexts that read a counter, at any setting of the parameters. -/
def twoReaders (s : State) : State := { s with schedule := [.host 0 0x20000000, .host 1 0x20000000] }

theorem witness_ReadsOfTwoContextsAgree : (twoReaders (counting 7 9)).seq.phase = .counting ∧
    (twoReaders (counting 7 9)).params.timBase.toNat % 4 = 0 ∧ (twoReaders (counting 7 9)).params.readWidth = .u16 ∧
    (twoReaders (counting 7 9)).schedule = .host 0 0x20000000 :: .host 1 0x20000000 :: [] := by decide
theorem witness_ReadsOfTwoContextsAgree_native16 : (twoReaders (counting16native 7)).seq.phase = .counting ∧
    (twoReaders (counting16native 7)).params.timBase.toNat % 4 = 0 ∧
    (twoReaders (counting16native 7)).params.readWidth = .native ∧
    (twoReaders (counting16native 7)).params.cntWidth = .w16 ∧
    (twoReaders (counting16native 7)).schedule = .host 0 0x20000000 :: .host 1 0x20000000 :: [] := by decide
theorem witness_ReadsOfTwoContextsAgree_native32 : (twoReaders (counting32 .native 0x1FFFF 0xFFFFFFFF)).seq.phase = .counting ∧
    (twoReaders (counting32 .native 0x1FFFF 0xFFFFFFFF)).params.timBase.toNat % 4 = 0 ∧
    (twoReaders (counting32 .native 0x1FFFF 0xFFFFFFFF)).params.readWidth = .native ∧
    (twoReaders (counting32 .native 0x1FFFF 0xFFFFFFFF)).params.cntWidth = .w32 ∧
    (twoReaders (counting32 .native 0x1FFFF 0xFFFFFFFF)).schedule = .host 0 0x20000000 :: .host 1 0x20000000 :: [] := by
  decide
theorem witness_CommandsLeaveTheTimerAlone : ∃ t, exec .read State.reset = .next t := ⟨refuse .noHandle State.reset, rfl⟩
theorem witness_CommandsLeaveTheTimerAlone_configure : ∃ t, exec (.configure 3 0xFFFF) State.reset = .next t :=
  ⟨acceptOptions 3 0xFFFF State.reset, rfl⟩
theorem witness_InputSelectOneStep : (inPhase .seq1 (regs 0 0 0 0 0 0)).seq.phase = .seq1 ∧
    (inPhase .seq1 (regs 0 0 0 0 0 0)).params.timBase.toNat % 4 = 0 := by decide
theorem witness_InputSelectTwoStep : (inPhase .seq2 (regs 0 0 1 0 0 0)).seq.phase = .seq2 ∧
    (inPhase .seq2 (regs 0 0 1 0 0 0)).params.timBase.toNat % 4 = 0 := by decide
theorem witness_PolarityOneStep : (inPhase .seq3 (regs 0 0 0 0xB 0 0)).seq.phase = .seq3 ∧
    (inPhase .seq3 (regs 0 0 0 0xB 0 0)).params.timBase.toNat % 4 = 0 := by decide
theorem witness_PolarityTwoStep : (inPhase .seq4 (regs 0 0 0 0xF1 0 0)).seq.phase = .seq4 ∧
    (inPhase .seq4 (regs 0 0 0 0xF1 0 0)).params.timBase.toNat % 4 = 0 := by decide
theorem witness_SlaveModeStep : (inPhase .seq5 (regs 0 0 0 0 0 0)).seq.phase = .seq5 ∧
    (inPhase .seq5 (regs 0 0 0 0 0 0)).seq.mode = some 0xA ∧
    (inPhase .seq5 (regs 0 0 0 0 0 0)).params.timBase.toNat % 4 = 0 := by decide
theorem witness_CounterEnableStep : (inPhase .seq6 (regs 0 0 0 0 0 0)).seq.phase = .seq6 ∧
    (inPhase .seq6 (regs 0 0 0 0 0 0)).params.timBase.toNat % 4 = 0 := by decide
/-- Under OTHER_BITS = ANY, for the six statements of one write step each. -/
theorem witness_writeSteps_any : ∀ p ∈ [Phase.seq1, .seq2, .seq3, .seq4, .seq5, .seq6],
    (underAny p).seq.phase = p ∧ (underAny p).params.timBase.toNat % 4 = 0 ∧ (underAny p).params.otherBits = .any ∧
    (underAny p).seq.mode = some 0xA := by decide
theorem witness_SlaveModeFieldsAreWrittenByW5Only : (inPhase .seq5 (regs 0 0 0 0 0 0)).seq.phase = .seq5 ∧
    (inPhase .seq5 (regs 0 0 0 0 0 0)).seq.mode = some 0xA ∧
    (inPhase .seq5 (regs 0 0 0 0 0 0)).params.timBase.toNat % 4 = 0 := by decide
theorem witness_SlaveModeFieldsAreWrittenByW5Only_others : (inPhase .seq6 (regs 0 7 0 0 0 0)).seq.phase ≠ .seq5 ∧
    ∃ t, exec (.configure 3 0xFFFF) (inPhase .seq6 (regs 0 7 0 0 0 0)) = .next t := ⟨by decide, _, rfl⟩
theorem witness_OperationsReachTheirRegistersOnly : ∀ p ∈ [Phase.notConfigured, .seq1, .seq2, .seq3, .seq4, .seq5, .seq6,
    .counting], (inPhase p (regs 0 0 0 0 0 0)).seq.phase = p := by decide
theorem witness_OperationsReachTheirRegistersOnly_read : (regs 7 7 7 7 0x1234 7).cnt = (counting 0x1234 0xFFFF).tim.cnt ∧
    ∃ t, exec .read (counting 0x1234 0xFFFF) = .next t :=
  ⟨by decide, respond 0x1234 (counting 0x1234 0xFFFF), by rfl⟩
theorem witness_CounterEnableStep_stays : (∃ t, step (issuing 0x20000000 (counting 7 9)) = .next t) ∧
    NoResetNext (issuing 0x20000000 (counting 7 9)) ∧ cen (issuing 0x20000000 (counting 7 9)) = true :=
  ⟨⟨_, rfl⟩, (by intro rest h; cases h), by decide⟩
theorem witness_WriteStepSetsNamedFieldsOnly : (inPhase .seq2 (regs 0 0 1 0 0 0)).seq.phase.pending = some .w2 ∧
    (inPhase .seq2 (regs 0 0 1 0 0 0)).params.timBase.toNat % 4 = 0 ∧
    (inPhase .seq2 (regs 0 0 1 0 0 0)).params.otherBits = .preserve := by decide
theorem witness_WriteStepLeavesOtherBytes : (inPhase .seq6 (regs 0 0 0 0 0 0)).seq.phase.pending = some .w6 ∧
    (inPhase .seq6 (regs 0 0 0 0 0 0)).params.timBase.toNat % 4 = 0 ∧
    4 ≤ (0x40000404#32 - ((inPhase .seq6 (regs 0 0 0 0 0 0)).params.timBase + Reg.offset .cr1)).toNat := by decide
theorem witness_MisalignedAccessIsRefused_block : Params.default.timBase.toNat % 4 = 0 := by decide
theorem witness_MisalignedAccessIsRefused_sequencer : (misaligned .seq1).params.timBase.toNat % 4 ≠ 0 ∧
    (misaligned .seq1).seq.phase.pending.isSome = true := by decide
theorem witness_MisalignedAccessIsRefused_read : (misaligned .counting).params.timBase.toNat % 4 ≠ 0 ∧
    (misaligned .counting).seq.phase = .counting := by decide
theorem witness_ByteViewIsLittleEndian : (3 : Nat) < 4 := by decide
theorem witness_CountStepWrapsAtReload : cen (counting 3 3) = true ∧
    (countOf (counting 3 3)).toNat ≤ (reloadOf (counting 3 3)).toNat := by decide
theorem witness_CountStepWrapsAtReload_down : cen (counting 0 3) = true ∧ countOf (counting 0 3) = 0 ∧
    (countOf (counting 0 3)).toNat ≤ (reloadOf (counting 0 3)).toNat := by decide
theorem witness_CountAboveReloadIsFree : cen (counting 4 3) = true ∧
    (reloadOf (counting 4 3)).toNat < (countOf (counting 4 3)).toNat := by decide
theorem witness_CountTurnNeedsEnable_disabled :
    ({ State.reset with schedule := [.count .up] } : State).schedule = .count .up :: [] ∧
    cen ({ State.reset with schedule := [.count .up] } : State) = false := by decide
theorem witness_CountTurnNeedsEnable_enabled :
    ({ counting 0 3 with schedule := [.count .down] } : State).schedule = .count .down :: [] ∧
    cen ({ counting 0 3 with schedule := [.count .down] } : State) = true := by decide
theorem witness_CountUpAndDownCancel : cen (counting 0 0) = true ∧
    (countOf (counting 0 0)).toNat ≤ (reloadOf (counting 0 0)).toNat := by decide
theorem witness_CounterStaysWithinReload : (∃ t, step { counting 3 3 with schedule := [.count .up] } = .next t) ∧
    NoResetNext { counting 3 3 with schedule := [.count .up] } ∧
    (countOf { counting 3 3 with schedule := [.count .up] }).toNat ≤
      (reloadOf { counting 3 3 with schedule := [.count .up] }).toNat :=
  ⟨⟨_, rfl⟩, (by intro rest h; cases h), by decide⟩
theorem witness_RefusalMarkIsSticky : ∃ t, step (issuing 0x20000000 State.reset) = .next t ∧
    NoResetNext (issuing 0x20000000 State.reset) ∧ ¬ Clean t :=
  ⟨_, rfl, (by intro rest h; cases h), by unfold Clean; decide⟩
theorem witness_PhaseAdvancesByOne : (∃ t, step (inPhase .seq3 (regs 0 0 0 0 0 0)) = .next t) ∧
    NoResetNext (inPhase .seq3 (regs 0 0 0 0 0 0)) :=
  ⟨⟨_, rfl⟩, by intro rest h; cases h⟩
theorem witness_ReloadAndIdleCounterAreKept : (∃ t, step (issuing 0x20000000 State.reset) = .next t) ∧
    NoResetNext (issuing 0x20000000 State.reset) ∧ cen (issuing 0x20000000 State.reset) = false :=
  ⟨⟨_, rfl⟩, (by intro rest h; cases h), by decide⟩
theorem witness_LogGrowsByPendingStep : (∃ t, step (inPhase .seq6 (regs 0 0 0 0 0 0)) = .next t) ∧
    NoResetNext (inPhase .seq6 (regs 0 0 0 0 0 0)) ∧ (inPhase .seq6 (regs 0 0 0 0 0 0)).seq.phase.pending = some .w6 :=
  ⟨⟨_, rfl⟩, (by intro rest h; cases h), by decide⟩
theorem witness_OptionsAreLatchedOnce : (∃ t, step (issuing 0x10050010 (counting 0 3)) = .next t) ∧
    NoResetNext (issuing 0x10050010 (counting 0 3)) ∧ (issuing 0x10050010 (counting 0 3)).seq.phase ≠ .notConfigured :=
  ⟨⟨_, rfl⟩, (by intro rest h; cases h), by decide⟩
theorem witness_OnlyPendingStepWritesItsRegister : (∃ t, step (inPhase .seq5 (regs 0 0 0 0 0 0)) = .next t) ∧
    NoResetNext (inPhase .seq5 (regs 0 0 0 0 0 0)) ∧ (inPhase .seq5 (regs 0 0 0 0 0 0)).seq.phase.pending = some .w5 :=
  ⟨⟨_, rfl⟩, (by intro rest h; cases h), by decide⟩
theorem witness_ParametersNeverChange : ∃ t, step State.reset = .next t := ⟨_, rfl⟩
theorem witness_NothingMovesWhenNothingIsEnabled : State.reset.schedule = [] ∧ State.reset.seq.phase.pending = none ∧
    cen State.reset = false := by decide
theorem witness_ResetValuesOfTheSequencer :
    ({ counting 0 3 with schedule := [.platformReset] } : State).schedule = .platformReset :: [] := by decide
theorem witness_PlatformResetDrawsTheTimer :
    ({ State.reset with schedule := [.platformReset, .sequencer] } : State).schedule = .platformReset :: [.sequencer] := by
  decide
theorem witness_InvariantHoldsAtReset : ({ Params.default with cntWidth := .w32 } : Params).timBase.toNat % 4 = 0 ∧
    (regs 1 0 0 0 0x12345678 0xFFFFFFFF).cnt &&& ~~~cntMask { Params.default with cntWidth := .w32 } = 0 ∧
    (regs 1 0 0 0 0x12345678 0xFFFFFFFF).arr &&& ~~~cntMask { Params.default with cntWidth := .w32 } = 0 := by decide

/-- A state in the middle of a sequence that meets the invariant: W1 and W2 are taken. -/
def midSequence : State :=
  { State.reset with
    seq := ⟨.seq3, some 0xA, some 0x400, false, [⟨.ccmr1, [(.cc1s, 1)]⟩, ⟨.ccmr1, [(.cc2s, 1)]⟩]⟩
    tim := regs 0 0 0x101 0xFF 0x1234 0xFFFF
    waiting := some 0 }

theorem witness_StepKeepsTheInvariant : Inv midSequence ∧ ∃ t, step midSequence = .next t := by
  refine ⟨⟨by decide, by decide, by decide, by decide, by decide, by decide, by decide, by decide, ?_, by decide, by decide⟩,
    ⟨_, rfl⟩⟩
  intro k hk
  unfold FieldsHold
  revert k
  decide

/-- The state of program P1 of 95_test_vectors.md with its two first commands. -/
def programP1 : State :=
  { inPhase .notConfigured (regs 0 0 0 0 0x1234 0xFFFF) with
    schedule := [.host 0 (encode (.configure 0x3 0xFFFF)), .host 0 (encode .read)] }

theorem witness_ConfigureRunsToCounting : (issuing (encode (.configure 0x3 0xFFFF)) State.reset).seq.phase = .notConfigured ∧
    (issuing (encode (.configure 0x3 0xFFFF)) State.reset).premises = ⟨true, true, true⟩ ∧
    getField .cen (issuing (encode (.configure 0x3 0xFFFF)) State.reset).tim.cr1 = 0 ∧
    (issuing (encode (.configure 0x3 0xFFFF)) State.reset).params.timBase.toNat % 4 = 0 ∧
    (issuing (encode (.configure 0x3 0xFFFF)) State.reset).schedule = [.host 0 (encode (.configure 0x3 0xFFFF))] := by decide
theorem witness_FirstReadReturnsTheOldCount : programP1.seq.phase = .notConfigured ∧
    programP1.premises = ⟨true, true, true⟩ ∧ getField .cen programP1.tim.cr1 = 0 ∧
    programP1.params.timBase.toNat % 4 = 0 ∧
    programP1.schedule = .host 0 (encode (.configure 0x3 0xFFFF)) :: .host 0 (encode .read) :: [] := by decide
/-- The same at the two native widths. -/
def programP5 (w : CntWidth) : State :=
  { programP1 with params := { Params.default with cntWidth := w, readWidth := .native } }

theorem witness_FirstReadReturnsTheOldCount_native : ∀ w ∈ [CntWidth.w16, CntWidth.w32],
    (programP5 w).seq.phase = .notConfigured ∧ (programP5 w).premises = ⟨true, true, true⟩ ∧
    getField .cen (programP5 w).tim.cr1 = 0 ∧ (programP5 w).params.timBase.toNat % 4 = 0 ∧
    (programP5 w).params.readWidth = .native ∧ (programP5 w).params.cntWidth = w ∧
    (programP5 w).schedule = .host 0 (encode (.configure 0x3 0xFFFF)) :: .host 0 (encode .read) :: [] := by decide
theorem witness_SequenceReachesCounting :
    ({ midSequence with schedule := [.count .up, .host 1 0x20000000] } : State).params.timBase.toNat % 4 = 0 ∧
    ({ midSequence with schedule := [.count .up, .host 1 0x20000000] } : State).seq.phase.pending.isSome = true ∧
    (∀ turn ∈ ({ midSequence with schedule := [.count .up, .host 1 0x20000000] } : State).schedule,
      turn ≠ .platformReset) := by decide

end Sys2Proof.Tests
end

section
/-! PROOFS. Family 00_scope: every state has a next state, no step changes a parameter, and nothing moves when nothing is
enabled. First what one step is for each kind of turn, and that the agents' own steps keep the parameters. -/

namespace Sys2Proof.Machine

/-! One step, by the turn that is scheduled (60_exceptions.md R172). -/

theorem step_of_no_turn {s : State} (hs : s.schedule = []) : step s = .next (idleStep s) := by
  simp [step, advance, hs]

theorem step_of_blocked_host {s : State} {ctx : Nat} {w : Word} {rest : List Turn}
    (hs : s.schedule = .host ctx w :: rest) (hb : isBlocked ctx s = true) : step s = .next (sequencerStep s) := by
  simp [step, advance, hs, hb]

theorem step_of_free_host {s : State} {ctx : Nat} {w : Word} {rest : List Turn}
    (hs : s.schedule = .host ctx w :: rest) (hb : isBlocked ctx s = false) :
    step s = hostCommand w (takeCommand ctx rest s) := by
  simp [step, advance, hs, hb]

theorem step_of_sequencer {s : State} {rest : List Turn} (hs : s.schedule = .sequencer :: rest) :
    step s = .next (sequencerStep (takeTurn rest s)) := by
  simp [step, advance, hs]

theorem step_of_count {s : State} {dir : CountDir} {rest : List Turn} (hs : s.schedule = .count dir :: rest) :
    step s = .next (countStep dir (takeTurn rest s)) := by
  simp [step, advance, hs]

theorem step_of_platformReset {s : State} {rest : List Turn} (hs : s.schedule = .platformReset :: rest) :
    step s = .next (platformReset (takeTurn rest s)) := by
  simp [step, advance, hs]

/-- Each of the outcomes of a host command is a next state: it is obeyed or turned away by `refuse`
(60_exceptions.md R160, R163). -/
theorem hostCommand_goes_on (w : Word) (s : State) : ∃ t, hostCommand w s = .next t := by
  obtain ⟨_, h⟩ | ⟨_, _, -, -, h⟩ | ⟨-, h⟩ := hostCommand_cases w s
  · exact ⟨_, h⟩
  · exact ⟨_, h⟩
  · exact ⟨_, h⟩

/-- With neither the sequencer nor the counter enabled the idle step is no move (40_configure.md R111,
60_exceptions.md R167). -/
theorem idleStep_eq_self {s : State} (hi : inSequence s = false) (hc : cen s = false) : idleStep s = s := by
  simp [idleStep, hi, hc]

/-! The parameters under the moves of the agents (00_scope.md R9). -/

@[simp] theorem afterStep_params (k : WriteStep) (s : State) : (afterStep k s).params = s.params := rfl

@[simp] theorem sequencerStep_params (s : State) : (sequencerStep s).params = s.params := by
  obtain ⟨-, h⟩ | ⟨k, -, -, h⟩ | ⟨k, -, -, h⟩ := sequencerStep_cases s <;> simp [h]

@[simp] theorem countStep_params (dir : CountDir) (s : State) : (countStep dir s).params = s.params := by
  obtain ⟨-, h⟩ | ⟨-, v, n, h⟩ := countStep_cases dir s <;> simp [h]

/-! The statements. -/

/-- Settles O31, by the turn that is scheduled: only a host command could be turned away, and it is answered by a next
state too. -/
theorem everyStepGoesOn : Obligations.EveryStepGoesOn := by
  unfold Obligations.EveryStepGoesOn
  intro s
  cases hs : s.schedule with
  | nil => exact ⟨_, step_of_no_turn hs⟩
  | cons turn rest =>
    cases turn with
    | host ctx w =>
      cases hb : isBlocked ctx s with
      | true => exact ⟨_, step_of_blocked_host hs hb⟩
      | false =>
        rw [step_of_free_host hs hb]
        exact hostCommand_goes_on w _
    | sequencer => exact ⟨_, step_of_sequencer hs⟩
    | count dir => exact ⟨_, step_of_count hs⟩
    | platformReset => exact ⟨_, step_of_platformReset hs⟩

/-- Settles O38, by the cases of a step: taking the turn keeps the parameters, and so does each move that can follow. -/
theorem parametersNeverChange : Obligations.ParametersNeverChange := by
  unfold Obligations.ParametersNeverChange
  intro s t h
  obtain ⟨u, hu, -, -, -, -, -, -, hmove⟩ := step_cases h
  suffices hkept : t.params = u.params from hkept.trans hu
  obtain rfl | rfl | ⟨dir, rfl⟩ | ⟨e, rfl⟩ | ⟨m, a, -, -, rfl⟩ | ⟨-, rfl⟩ | ⟨-, rfl⟩ := hmove
  · rfl
  · exact sequencerStep_params u
  · exact countStep_params dir u
  · exact refuse_params e u
  · exact acceptOptions_params m a u
  · exact respond_params _ u
  · exact platformReset_params u

/-- Settles O40: with no turn left the step is the idle step, and neither agent that it lets move is enabled. -/
theorem nothingMovesWhenNothingIsEnabled : Obligations.NothingMovesWhenNothingIsEnabled := by
  unfold Obligations.NothingMovesWhenNothingIsEnabled
  intro s hs hp hc
  have hi : inSequence s = false := by simp [inSequence, hp]
  rw [step_of_no_turn hs, idleStep_eq_self hi hc]

end Sys2Proof.Machine
end

section
/-! PROOFS. Family 10_state: the sequencer's state and the timer registers under every step. First what a step that is no
platform reset does, as six moves; then each rule of 10_state.md is a case analysis over the moves. -/

namespace Sys2Proof.Machine

/-! The moves of the block. -/

/-- What a step that is no platform reset can do to the state with the turn taken (60_exceptions.md R172). -/
inductive Move (u : State) : State → Prop
  /-- Only the scheduling fields change. -/
  | stay : Move u u
  /-- A command or an access is turned away. -/
  | refuse (e : RefuseReason) : Move u (refuse e u)
  /-- The pending write step is taken. -/
  | write {k : WriteStep} (pending : u.seq.phase.pending = some k) : Move u (afterStep k u)
  /-- The enabled counter writes its field. -/
  | count (enabled : cen u = true) (v : Word) (n : Nat) : Move u (skipDraws n (setCount v u))
  /-- CONFIGURE is accepted. -/
  | accept (idle : u.seq.phase = .notConfigured) (m : BitVec 4) (a : BitVec 16) : Move u (acceptOptions m a u)
  /-- READ is answered. -/
  | respond (v : Word) : Move u (respond v u)

theorem sequencerStep_is_move (u : State) : Move u (sequencerStep u) := by
  obtain ⟨-, h⟩ | ⟨k, hp, -, h⟩ | ⟨k, -, -, h⟩ := sequencerStep_cases u <;> rw [h]
  · exact .stay
  · exact .write hp
  · exact .refuse .misaligned

theorem countStep_is_move (dir : CountDir) (u : State) : Move u (countStep dir u) := by
  obtain ⟨-, h⟩ | ⟨hc, v, n, h⟩ := countStep_cases dir u <;> rw [h]
  · exact .stay
  · exact .count hc v n

/-- A step that is no platform reset is a move from the state with the turn taken, in which the sequencer, the timer and
the reasons are those before the step. -/
theorem step_is_move {s t : State} (h : step s = .next t) (hr : NoResetNext s) :
    ∃ u, u.seq = s.seq ∧ u.tim = s.tim ∧ u.reasons = s.reasons ∧ Move u t := by
  obtain ⟨u, -, hseq, htim, -, -, -, hreasons, hmove⟩ := step_cases h
  refine ⟨u, hseq, htim, hreasons, ?_⟩
  obtain rfl | rfl | ⟨dir, rfl⟩ | ⟨e, rfl⟩ | ⟨m, a, hp, -, rfl⟩ | ⟨-, rfl⟩ | ⟨⟨rest, hs⟩, -⟩ := hmove
  · exact .stay
  · exact sequencerStep_is_move u
  · exact countStep_is_move dir u
  · exact .refuse e
  · exact .accept hp m a
  · exact .respond _
  · exact absurd hs (hr rest)

/-! No write step writes CNT or ARR (40_configure.md R120). -/

theorem cnt_ne_writeStep_reg (k : WriteStep) : Reg.cnt ≠ k.reg := by cases k <;> decide

theorem arr_ne_writeStep_reg (k : WriteStep) : Reg.arr ≠ k.reg := by cases k <;> decide

@[simp] theorem afterStep_cnt (k : WriteStep) (s : State) : (afterStep k s).tim.cnt = s.tim.cnt :=
  afterStep_get_other k s (cnt_ne_writeStep_reg k)

@[simp] theorem afterStep_arr (k : WriteStep) (s : State) : (afterStep k s).tim.arr = s.tim.arr :=
  afterStep_get_other k s (arr_ne_writeStep_reg k)

/-- The phase a pending write step ends in has the next code (10_state.md R22). -/
theorem code_next_of_pending {p : Phase} {k : WriteStep} (h : p.pending = some k) :
    k.next.code.toNat = p.code.toNat + 1 := by
  cases p <;> cases h <;> rfl

/-- Counting changes no register but CNT (60_exceptions.md R167). -/
theorem setCount_get_other (v : Word) (s : State) {r : Reg} (h : r ≠ .cnt) :
    (setCount v s).tim.get r = s.tim.get r := by
  cases r with
  | cnt => exact absurd rfl h
  | cr1 | smcr | ccmr1 | ccer | arr => rfl

/-! CEN is a function of the timer, the latched code one of the sequencer's state. -/

theorem cen_congr {s u : State} (h : u.tim = s.tim) : cen u = cen s := by simp [cen, h]

theorem latchedCode_congr {s u : State} (h : u.seq = s.seq) : latchedCode u = latchedCode s := by simp [latchedCode, h]

/-! The rules of 10_state.md, over the moves. -/

/-- Settles O32: only the refusal touches the mark or the reasons, and it sets the one and appends to the other. -/
theorem refusalMarkIsSticky : Obligations.RefusalMarkIsSticky := by
  unfold Obligations.RefusalMarkIsSticky Clean
  intro s t h hr
  obtain ⟨u, hseq, -, hreasons, hmove⟩ := step_is_move h hr
  rw [← hseq, ← hreasons]
  cases hmove with
  | stay | write | count | accept | respond => exact ⟨id, List.prefix_rfl⟩
  | refuse e => exact ⟨nofun, List.prefix_append _ _⟩

/-- Settles O33: the phase moves only where options are accepted, to SEQ1, and by a write step, to the next phase. -/
theorem phaseAdvancesByOne : Obligations.PhaseAdvancesByOne := by
  unfold Obligations.PhaseAdvancesByOne
  intro s t h hr
  obtain ⟨u, hseq, -, -, hmove⟩ := step_is_move h hr
  rw [← hseq]
  cases hmove with
  | stay | refuse | count | respond => exact .inl rfl
  | write hp => exact .inr (code_next_of_pending hp)
  | accept hidle => exact .inr (by rw [hidle]; rfl)

/-- Settles O34: only the counter writes CNT, no move writes ARR, and the counter moves only with CEN = 1. -/
theorem reloadAndIdleCounterAreKept : Obligations.ReloadAndIdleCounterAreKept := by
  unfold Obligations.ReloadAndIdleCounterAreKept
  intro s t h hr
  obtain ⟨u, -, htim, -, hmove⟩ := step_is_move h hr
  rw [← htim, ← cen_congr htim]
  cases hmove with
  | stay | refuse | accept | respond => exact ⟨rfl, fun _ => rfl⟩
  | write => exact ⟨afterStep_arr _ u, fun _ => afterStep_cnt _ u⟩
  | count hc => exact ⟨rfl, fun hdisabled => by simp [hc] at hdisabled⟩

/-- Settles O35: the move that latches options starts in NOT_CONFIGURED. -/
theorem optionsAreLatchedOnce : Obligations.OptionsAreLatchedOnce := by
  unfold Obligations.OptionsAreLatchedOnce
  intro s t h hr
  obtain ⟨u, hseq, -, -, hmove⟩ := step_is_move h hr
  rw [← hseq]
  intro hp
  cases hmove with
  | stay | refuse | write | count | respond => exact ⟨rfl, rfl⟩
  | accept hidle => exact absurd hidle hp

/-- Settles O36: the write step is the one move that logs. -/
theorem logGrowsByPendingStep : Obligations.LogGrowsByPendingStep := by
  unfold Obligations.LogGrowsByPendingStep
  intro s t h hr
  obtain ⟨u, hseq, -, -, hmove⟩ := step_is_move h hr
  rw [← hseq, ← latchedCode_congr hseq]
  cases hmove with
  | stay | refuse | count | accept | respond => exact .inl rfl
  | write hp => exact .inr ⟨_, hp, rfl, rfl⟩

/-- Settles O37: of the moves, counting writes CNT and a write step its own register; the others write none. -/
theorem onlyPendingStepWritesItsRegister : Obligations.OnlyPendingStepWritesItsRegister := by
  unfold Obligations.OnlyPendingStepWritesItsRegister
  intro s t h hr
  obtain ⟨u, hseq, htim, -, hmove⟩ := step_is_move h hr
  rw [← hseq, ← htim]
  cases hmove with
  | stay | refuse | accept | respond => exact .inl fun _ _ => rfl
  | count _ v => exact .inl fun _ hne => setCount_get_other v u hne
  | write hp => exact .inr ⟨_, hp, rfl, fun _ hne => afterStep_get_other _ u hne⟩

/-! The sequencer's step in each of its cases (40_configure.md R111; 20_memory.md R65). -/

theorem sequencerStep_of_not_pending {s : State} (hp : s.seq.phase.pending = none) : sequencerStep s = s := by
  simp [sequencerStep, hp]

theorem sequencerStep_of_aligned {s : State} {k : WriteStep} (hp : s.seq.phase.pending = some k)
    (ha : isAligned (busAddr s.params k.reg) = true) : sequencerStep s = afterStep k s := by
  simp [sequencerStep, hp, writeStep_cases, ha]

theorem sequencerStep_of_misaligned {s : State} {k : WriteStep} (hp : s.seq.phase.pending = some k)
    (ha : isAligned (busAddr s.params k.reg) = false) : sequencerStep s = refuse .misaligned s := by
  simp [sequencerStep, hp, writeStep_cases, ha]

/-! The reload option is read by no rule (10_state.md R24): every move does the same with another value in its place. -/

/-- The state with another value latched as the reload option. -/
def withReload (x : Option (BitVec 16)) (s : State) : State := { s with seq := { s.seq with arr := x } }

@[simp] theorem withReload_phase (x : Option (BitVec 16)) (s : State) : (withReload x s).seq.phase = s.seq.phase := rfl
@[simp] theorem withReload_draws (x : Option (BitVec 16)) (s : State) : (withReload x s).draws = s.draws := rfl
@[simp] theorem withReload_withReload (x y : Option (BitVec 16)) (s : State) :
    withReload x (withReload y s) = withReload x s := rfl

theorem sequencerStep_withReload (x : Option (BitVec 16)) (s : State) :
    sequencerStep (withReload x s) = withReload x (sequencerStep s) := by
  obtain ⟨hp, h⟩ | ⟨k, hp, ha, h⟩ | ⟨k, hp, ha, h⟩ := sequencerStep_cases s <;> rw [h]
  · exact sequencerStep_of_not_pending (s := withReload x s) hp
  · exact sequencerStep_of_aligned (s := withReload x s) hp ha
  · exact sequencerStep_of_misaligned (s := withReload x s) hp ha

theorem countStep_withReload (x : Option (BitVec 16)) (dir : CountDir) (s : State) :
    countStep dir (withReload x s) = withReload x (countStep dir s) := by
  have hcen : cen (withReload x s) = cen s := rfl
  have hcount : countOf (withReload x s) = countOf s := rfl
  have hreload : reloadOf (withReload x s) = reloadOf s := rfl
  unfold countStep
  rw [hcen, hcount, hreload]
  split
  · split <;> rfl
  · rfl

theorem freeCount_withReload (x : Option (BitVec 16)) (s : State) :
    freeCount (withReload x s) = withReload x (freeCount s) := by
  unfold freeCount
  rw [withReload_draws]
  split
  · exact countStep_withReload x _ (skipDraws 1 s)
  · rfl

theorem idleStep_withReload (x : Option (BitVec 16)) (s : State) :
    idleStep (withReload x s) = withReload x (idleStep s) := by
  have hseq : inSequence (withReload x s) = inSequence s := rfl
  have hcen : cen (withReload x s) = cen s := rfl
  unfold idleStep
  rw [hseq, hcen]
  split
  · exact sequencerStep_withReload x s
  · split
    · exact freeCount_withReload x s
    · rfl

/-- Both outcomes are next states, which differ at most in the reload option. -/
def SameButReload (o p : Host.Outcome State Fault Refusal) : Prop :=
  ∃ t u, o = .next t ∧ p = .next u ∧ withReload none u = withReload none t

theorem SameButReload.of_eq {x : Option (BitVec 16)} {t u : State} (h : u = withReload x t) :
    SameButReload (.next t) (.next u) := ⟨t, u, rfl, rfl, by rw [h, withReload_withReload]⟩

theorem execConfigure_withReload (m : BitVec 4) (a : BitVec 16) (x : Option (BitVec 16)) (s : State) :
    SameButReload (execConfigure m a s) (execConfigure m a (withReload x s)) := by
  have hlaunch : launchPremisesHold (withReload x s) = launchPremisesHold s := rfl
  unfold execConfigure
  rw [withReload_phase, hlaunch]
  split
  · split
    · exact ⟨acceptOptions m a s, acceptOptions m a s, rfl, rfl, rfl⟩
    · exact .of_eq (x := x) rfl
  · exact .of_eq (x := x) rfl

theorem execRead_withReload (x : Option (BitVec 16)) (s : State) :
    SameButReload (execRead s) (execRead (withReload x s)) := by
  have hread : memRead .cnt (withReload x s) = memRead .cnt s := rfl
  unfold execRead
  rw [withReload_phase, hread]
  split
  · cases memRead .cnt s with
    | done w => exact .of_eq (x := x) rfl
    | stop e => exact .of_eq (x := x) rfl
  · exact .of_eq (x := x) rfl

theorem hostCommand_withReload (w : Word) (x : Option (BitVec 16)) (s : State) :
    SameButReload (hostCommand w s) (hostCommand w (withReload x s)) := by
  unfold hostCommand
  cases decode w with
  | reserved v => exact .of_eq (x := x) rfl
  | command i =>
    cases i with
    | configure m a => exact execConfigure_withReload m a x s
    | read => exact execRead_withReload x s

/-- One step does the same whatever reload option is latched, by the turn that is scheduled. -/
theorem step_withReload (x : Option (BitVec 16)) (s : State) : SameButReload (step s) (step (withReload x s)) := by
  cases hs : s.schedule with
  | nil =>
    rw [step_of_no_turn hs, step_of_no_turn (s := withReload x s) hs]
    exact .of_eq (idleStep_withReload x s)
  | cons turn rest =>
    cases turn with
    | host ctx w =>
      cases hb : isBlocked ctx s with
      | true =>
        rw [step_of_blocked_host hs hb, step_of_blocked_host (s := withReload x s) hs hb]
        exact .of_eq (sequencerStep_withReload x s)
      | false =>
        rw [step_of_free_host hs hb, step_of_free_host (s := withReload x s) hs hb]
        exact hostCommand_withReload w x (takeCommand ctx rest s)
    | sequencer =>
      rw [step_of_sequencer hs, step_of_sequencer (s := withReload x s) hs]
      exact .of_eq (sequencerStep_withReload x (takeTurn rest s))
    | count dir =>
      rw [step_of_count hs, step_of_count (s := withReload x s) hs]
      exact .of_eq (countStep_withReload x dir (takeTurn rest s))
    | platformReset =>
      rw [step_of_platformReset hs, step_of_platformReset (s := withReload x s) hs]
      exact ⟨_, _, rfl, rfl, rfl⟩

/-- Settles O39: `step_withReload`, in which the obligation's two updates of the option are `withReload`. -/
theorem reloadOptionIsDead : Obligations.ReloadOptionIsDead := by
  unfold Obligations.ReloadOptionIsDead
  exact fun s x => step_withReload x s

/-! The slave-mode fields (10_state.md R34). -/

theorem params_wellFormed_iff {p : Params} : p.wellFormed = true ↔ p.timBase.toNat % 4 = 0 := beq_iff_eq

/-- A field's value fits the field's width (30_encoding.md R92). -/
theorem getField_toNat_lt (f : Field) (w : Word) : (getField f w).toNat < 2 ^ f.width := by
  have hmask : f.mask.toNat / 2 ^ f.lsb < 2 ^ f.width := by cases f <;> decide
  rw [getField, BitVec.toNat_ushiftRight, BitVec.toNat_and, Nat.shiftRight_eq_div_pow]
  exact (Nat.div_le_div_right Nat.and_le_right).trans_lt hmask

/-- So nothing is lost of it when it is cut to that width. -/
theorem setWidth_getField_inj (f : Field) {v w : Word} :
    (getField f v).setWidth f.width = (getField f w).setWidth f.width ↔ getField f v = getField f w := by
  rw [← BitVec.toNat_inj, ← BitVec.toNat_inj, BitVec.toNat_setWidth, BitVec.toNat_setWidth,
    Nat.mod_eq_of_lt (getField_toNat_lt f v), Nat.mod_eq_of_lt (getField_toNat_lt f w)]

theorem joinCode_inj {hi hi' : BitVec 1} {lo lo' : BitVec 3} :
    joinCode hi lo = joinCode hi' lo' ↔ lo = lo' ∧ hi = hi' := by
  revert hi hi' lo lo'
  decide

/-- Settles O48: joining two fields is injective, and so is cutting each of them to its width. -/
theorem codeSeenDependsOnBothFieldsOnly : Obligations.CodeSeenDependsOnBothFieldsOnly := by
  unfold Obligations.CodeSeenDependsOnBothFieldsOnly codeSeen
  intro v w
  rw [joinCode_inj]
  exact and_congr (setWidth_getField_inj .smsLo) (setWidth_getField_inj .smsHi)

/-- After a write step every field it names holds its value (20_memory.md R64). -/
theorem afterStep_getField (k : WriteStep) (s : State) :
    ∀ e ∈ k.fields (latchedCode s), getField e.1 ((afterStep k s).tim.get k.reg) = e.2 := by
  intro e he
  obtain ⟨hvalue, hinside, hkept⟩ := fields_value k (latchedCode s) e he
  rw [afterStep_get_same, getField, mergeBits_and_inside _ _ _ _ _ _ _ hinside hkept, hvalue]

/-- No command writes a timer register (40_configure.md R110, 41_read.md R141). -/
theorem exec_tim {i : Instr} {s t : State} (h : exec i s = .next t) : t.tim = s.tim := by
  cases i with
  | configure m a =>
    obtain ⟨-, -, h'⟩ | ⟨-, -, h'⟩ | ⟨-, h'⟩ := execConfigure_cases m a s <;> cases h'.symm.trans h <;> rfl
  | read =>
    obtain ⟨-, -, h'⟩ | ⟨-, -, h'⟩ | ⟨-, h'⟩ := execRead_cases s <;> cases h'.symm.trans h <;> rfl

/-- Only W5, the step of SEQ5, writes SMCR. -/
theorem phase_of_pending_smcr {p : Phase} {k : WriteStep} (h : p.pending = some k) (hreg : .smcr = k.reg) :
    p = .seq5 := by
  cases p <;> cases h <;> cases hreg
  rfl

theorem sequencerStep_smcr {s : State} (hp : s.seq.phase ≠ .seq5) : (sequencerStep s).tim.smcr = s.tim.smcr := by
  obtain ⟨-, h⟩ | ⟨k, hk, -, h⟩ | ⟨k, -, -, h⟩ := sequencerStep_cases s <;> rw [h]
  · exact afterStep_get_other k s (fun hreg => hp (phase_of_pending_smcr hk hreg))
  · rfl

@[simp] theorem countStep_smcr (dir : CountDir) (s : State) : (countStep dir s).tim.smcr = s.tim.smcr := by
  obtain ⟨-, h⟩ | ⟨-, v, n, h⟩ := countStep_cases dir s <;> rw [h]
  rfl

/-- The two field values of a code, as R34 writes them, and the code they show the timer (30_encoding.md R88, R89). -/
theorem split_setWidth (c : BitVec 4) :
    (splitLo c).setWidth 32 = c.setWidth 32 &&& 0x7#32 ∧
    (splitHi c).setWidth 32 = (if c &&& 0x8#4 ≠ 0 then 1#32 else 0#32) ∧
    joinCode (((splitHi c).setWidth 32).setWidth 1) (((splitLo c).setWidth 32).setWidth 3) = c := by
  revert c
  decide

/-- Settles O51: W5 leaves its two fields at the split of the latched code, which joins to that code; every other write
step writes another register, a command writes none and the counter only CNT. -/
theorem slaveModeFieldsAreWrittenByW5Only : Obligations.SlaveModeFieldsAreWrittenByW5Only := by
  unfold Obligations.SlaveModeFieldsAreWrittenByW5Only
  refine ⟨fun s c hp hm haligned => ?_, fun s hp => sequencerStep_smcr hp,
    fun i s t h => congrArg Timer.smcr (exec_tim h), countStep_smcr⟩
  have hstep : sequencerStep s = afterStep .w5 s :=
    sequencerStep_eq (params_wellFormed_iff.mpr haligned) (by rw [hp]; rfl)
  have hcode : latchedCode s = c := by simp [latchedCode, hm]
  have hfields := afterStep_getField .w5 s
  rw [hcode] at hfields
  have hlo : getField .smsLo (sequencerStep s).tim.smcr = (splitLo c).setWidth 32 := by
    rw [hstep]
    exact hfields (.smsLo, (splitLo c).setWidth 32) (.head _)
  have hhi : getField .smsHi (sequencerStep s).tim.smcr = (splitHi c).setWidth 32 := by
    rw [hstep]
    exact hfields (.smsHi, (splitHi c).setWidth 32) (.tail _ (.head _))
  obtain ⟨hsplitLo, hsplitHi, hjoin⟩ := split_setWidth c
  exact ⟨hlo.trans hsplitLo, hhi.trans hsplitHi, by rw [codeSeen, hlo, hhi, hjoin]⟩

/-! Reset (10_state.md R39). -/

/-- Settles O41: a platform reset puts `Sequencer.reset` in place, whose fields are the values of R39. -/
theorem resetValuesOfTheSequencer : Obligations.ResetValuesOfTheSequencer := by
  unfold Obligations.ResetValuesOfTheSequencer
  exact ⟨rfl, fun s rest hs => ⟨_, step_of_platformReset hs, rfl⟩⟩

/-- A launch of an aligned block meets the invariant: no write step is taken or pending, so only the alignment and the
width of the counter's registers are left to ask for. -/
theorem launch_inv {p : Params} {pr : Premises} {t : Timer} (haligned : p.timBase.toNat % 4 = 0)
    (hcnt : t.cnt &&& ~~~cntMask p = 0) (harr : t.arr &&& ~~~cntMask p = 0) : Inv (State.launch p pr t) where
  aligned := params_wellFormed_iff.mpr haligned
  log_is_steps := rfl
  mode_latched := rfl
  arr_latched := rfl
  waits_in_sequence := rfl
  mark_is_reported := rfl
  disabled_in_sequence := nofun
  enabled_when_counting := nofun
  fields_hold := nofun
  cnt_fits := hcnt
  arr_fits := harr

/-- Settles O43: `launch_inv`, of which `State.reset` is a case. -/
theorem invariantHoldsAtReset : Obligations.InvariantHoldsAtReset := by
  unfold Obligations.InvariantHoldsAtReset
  exact ⟨launch_inv (by decide) (by decide) (by decide), fun p pr t => launch_inv⟩

end Sys2Proof.Machine
end

section
/-! PROOFS. Family 20_memory: the register accesses of the block, what a write step keeps, and the invariant. First where
an access is aligned, then what a write step and READ do to a state, then the invariant under each move. -/

namespace Sys2Proof.Machine

/-! Alignment (20_memory.md R62, R65). -/

theorem offset_toNat_mod_four (r : Reg) : r.offset.toNat % 4 = 0 := by cases r <;> rfl

/-- A register stands in its word as TIM_BASE does: every offset is a multiple of 4. -/
theorem busAddr_toNat_mod_four (p : Params) (r : Reg) : (busAddr p r).toNat % 4 = p.timBase.toNat % 4 := by
  have hoffset := offset_toNat_mod_four r
  rw [busAddr, BitVec.toNat_add]
  omega

theorem not_isAligned_of_base {p : Params} (h : p.timBase.toNat % 4 ≠ 0) (r : Reg) :
    isAligned (busAddr p r) = false := by
  rw [isAligned, busAddr_toNat_mod_four, beq_eq_false_iff_ne]
  exact h

/-! READ in each of its cases (41_read.md R140, R145; 20_memory.md R65). -/

theorem execRead_of_aligned {s : State} (hp : s.seq.phase = .counting)
    (ha : isAligned (busAddr s.params .cnt) = true) :
    execRead s = .next (respond (readResult s.params s.tim.cnt) s) := by
  obtain ⟨-, -, h⟩ | ⟨-, hna, -⟩ | ⟨hne, -⟩ := execRead_cases s
  · exact h
  · exact absurd (ha.symm.trans hna) nofun
  · exact absurd hp hne

theorem execRead_of_misaligned {s : State} (hp : s.seq.phase = .counting)
    (ha : isAligned (busAddr s.params .cnt) = false) : execRead s = .next (refuse .misaligned s) := by
  obtain ⟨-, hal, -⟩ | ⟨-, -, h⟩ | ⟨hne, -⟩ := execRead_cases s
  · exact absurd (hal.symm.trans ha) nofun
  · exact h
  · exact absurd hp hne

theorem execRead_of_no_handle {s : State} (hp : s.seq.phase ≠ .counting) :
    execRead s = .next (refuse .noHandle s) := by
  obtain ⟨hc, -⟩ | ⟨hc, -⟩ | ⟨-, h⟩ := execRead_cases s
  · exact absurd hc hp
  · exact absurd hc hp
  · exact h

/-- READ depends on no register but CNT: in each of its cases the answer is the same with another timer that has the
same count. -/
theorem execRead_withTimer {s t : State} {x : Timer} (hx : x.cnt = s.tim.cnt) (h : execRead s = .next t) :
    execRead { s with tim := x } = .next { t with tim := x } := by
  obtain ⟨hp, ha, h'⟩ | ⟨hp, ha, h'⟩ | ⟨hp, h'⟩ := execRead_cases s <;> cases h'.symm.trans h
  · rw [execRead_of_aligned (s := { s with tim := x }) hp ha, hx]
    rfl
  · exact execRead_of_misaligned (s := { s with tim := x }) hp ha
  · exact execRead_of_no_handle (s := { s with tim := x }) hp

/-- READ's value at each width (41_read.md R142). -/
theorem readResult_widths (p : Params) (w : Word) :
    (p.readWidth = .u16 → readResult p w = (w.extractLsb' 0 16).setWidth 32) ∧
    (p.readWidth = .native → p.cntWidth = .w16 → readResult p w = (w.extractLsb' 0 16).setWidth 32) ∧
    (p.readWidth = .native → p.cntWidth = .w32 → readResult p w = w) := by
  refine ⟨fun hr => ?_, fun hr hc => ?_, fun hr hc => ?_⟩
  · simp only [readResult, hr]
    rfl
  · simp only [readResult, hr, hc]
    rfl
  · simp only [readResult, hr, hc]

/-- No context is blocked in COUNTING (40_configure.md R119). -/
theorem isBlocked_of_counting {s : State} (hp : s.seq.phase = .counting) (ctx : Nat) : isBlocked ctx s = false := by
  simp [isBlocked, inSequence, hp, Phase.pending]

/-- A READ issued in COUNTING at an aligned block is answered by the next step. -/
theorem step_of_read {s : State} {ctx : Nat} {rest : List Turn} (hp : s.seq.phase = .counting)
    (hw : s.params.wellFormed = true) (hs : s.schedule = .host ctx 0x20000000#32 :: rest) :
    step s = .next (respond (readResult s.params s.tim.cnt) (takeCommand ctx rest s)) := by
  rw [step_of_free_host hs (isBlocked_of_counting hp ctx)]
  exact execRead_of_aligned (s := takeCommand ctx rest s) hp (isAligned_of_wellFormed hw .cnt)

/-! A write step and the register it writes (20_memory.md R61, R64). -/

theorem set_get_self (t : Timer) (r : Reg) : t.set r (t.get r) = t := by cases r <;> rfl

/-- Every field an earlier step wrote keeps its value, whether or not the step writes its register. -/
theorem afterStep_keeps_earlier {k j : WriteStep} (hj : j ∈ k.earlier) (s : State) :
    ∀ e ∈ j.fields (latchedCode s), getField e.1 ((afterStep k s).tim.get j.reg) = getField e.1 (s.tim.get j.reg) := by
  intro e he
  by_cases hreg : j.reg = k.reg
  · obtain ⟨houtside, hkept⟩ := fields_kept k j hj hreg (latchedCode s) e he
    rw [hreg, afterStep_get_same, getField, mergeBits_and_kept _ _ _ _ _ _ _ houtside hkept, getField]
  · rw [afterStep_get_other k s hreg]

/-- Under PRESERVE every bit outside the step's mask keeps its value. -/
theorem afterStep_preserves_outside (k : WriteStep) {s : State} (hob : s.params.otherBits = .preserve) :
    (afterStep k s).tim.get k.reg &&& ~~~maskOf (k.fields (latchedCode s)) =
      s.tim.get k.reg &&& ~~~maskOf (k.fields (latchedCode s)) := by
  rw [afterStep_get_same, hob]
  exact mergeBits_and_outside _ _ _ _ _ _ (by rw [BitVec.and_comm, BitVec.and_not_self])

/-- A byte outside the four of the register a step writes reads as before: the register it belongs to, if any, is another
(20_memory.md R63). -/
theorem busByte_afterStep {k : WriteStep} {s : State} {a : Word} (ha : 4 ≤ (a - busAddr s.params k.reg).toNat) :
    busByte (afterStep k s) a = busByte s a := by
  simp only [busByte, afterStep_params]
  refine Option.map_congr fun r hr => ?_
  have hin : (a - busAddr s.params r).toNat < 4 := by
    have hfound := List.find?_some hr
    exact of_decide_eq_true hfound
  have hne : r ≠ k.reg := by
    rintro rfl
    omega
  rw [afterStep_get_other k s hne]

/-- The sequencer's step changes at most the register of the pending write step. -/
theorem sequencerStep_tim_of_pending {s : State} {k : WriteStep} (hp : s.seq.phase.pending = some k) :
    (sequencerStep s).tim = s.tim.set k.reg ((sequencerStep s).tim.get k.reg) := by
  cases ha : isAligned (busAddr s.params k.reg) with
  | true =>
    rw [sequencerStep_of_aligned hp ha, afterStep_get_same]
    rfl
  | false =>
    rw [sequencerStep_of_misaligned hp ha]
    exact (set_get_self s.tim k.reg).symm

/-! The byte view (20_memory.md R63). The 24 bytes of the six registers are disjoint, so that an address names one byte. -/

/-- Byte `i` of register `r` lies in no other register's four bytes. -/
theorem find_reg_of_offset (r : Reg) {i : Nat} (hi : i < 4) :
    allRegs.find? (fun q => decide ((r.offset + BitVec.ofNat 32 i - q.offset).toNat < 4)) = some r := by
  interval_cases i <;> cases r <;> rfl

/-- A distance within the block does not depend on where the block stands. -/
theorem sub_busAddr (p : Params) (q : Reg) (off : Word) : p.timBase + off - busAddr p q = off - q.offset :=
  add_sub_add_left_eq_sub ..

theorem busByte_of_reg (s : State) (r : Reg) {i : Nat} (hi : i < 4) :
    busByte s (s.params.timBase + (r.offset + BitVec.ofNat 32 i)) = some (byteOf (s.tim.get r) i) := by
  have hbyte : (r.offset + BitVec.ofNat 32 i - r.offset).toNat = i := by
    rw [add_sub_cancel_left, BitVec.toNat_ofNat, Nat.mod_eq_of_lt (by omega)]
  simp only [busByte, sub_busAddr]
  rw [find_reg_of_offset r hi, Option.map_some, hbyte]

/-! The invariant. It speaks of the parameters, the sequencer, the timer, the waiting context and the reasons only, so
that taking a turn, answering READ and using up a draw keep it. -/

theorem inv_congr {s u : State} (hi : Inv s) (hparams : u.params = s.params) (hseq : u.seq = s.seq)
    (htim : u.tim = s.tim) (hwaiting : u.waiting = s.waiting) (hreasons : u.reasons = s.reasons) : Inv u := by
  cases s
  cases u
  cases hparams
  cases hseq
  cases htim
  cases hwaiting
  cases hreasons
  exact { hi with }

/-- A refusal sets the mark and reports its reason (60_exceptions.md R163). -/
theorem refuse_inv {s : State} (hi : Inv s) (e : RefuseReason) : Inv (refuse e s) :=
  { hi with mark_is_reported := by simp }

/-- Premise P3 (70_reset_and_hazards.md R196). -/
theorem cen_of_launchPremisesHold {s : State} (h : launchPremisesHold s = true) : cen s = false := by
  simp only [launchPremisesHold, Bool.and_eq_true, Bool.not_eq_true'] at h
  obtain ⟨⟨-, hcen⟩, -⟩ := h
  exact hcen

/-- CONFIGURE is accepted with CEN = 0 and before any write step (40_configure.md R110). -/
theorem acceptOptions_inv {s : State} (hi : Inv s) (hp : s.seq.phase = .notConfigured)
    (hl : launchPremisesHold s = true) (m : BitVec 4) (a : BitVec 16) : Inv (acceptOptions m a s) where
  aligned := hi.aligned
  log_is_steps := hi.log_is_steps.trans (by rw [hp]; rfl)
  mode_latched := rfl
  arr_latched := rfl
  waits_in_sequence := rfl
  mark_is_reported := hi.mark_is_reported
  disabled_in_sequence _ := cen_of_launchPremisesHold hl
  enabled_when_counting := nofun
  fields_hold := nofun
  cnt_fits := hi.cnt_fits
  arr_fits := hi.arr_fits

/-- Bits cut to a mask have none outside it. -/
theorem and_mask_and_not (w m : Word) : (w &&& m) &&& ~~~m = 0 := by
  simp [BitVec.and_assoc]

/-- A count writes the counter field alone, and no write step has a field there (60_exceptions.md R167). -/
theorem setCount_inv {s : State} (hi : Inv s) (v : Word) : Inv (setCount v s) :=
  { hi with
    fields_hold := fun k hk e he => by
      rw [setCount_get_other v s (cnt_ne_writeStep_reg k).symm]
      exact hi.fields_hold k hk e he
    cnt_fits := by
      simp [hi.cnt_fits, and_mask_and_not] }

theorem countStep_inv {s : State} (hi : Inv s) (dir : CountDir) : Inv (countStep dir s) := by
  obtain ⟨-, h⟩ | ⟨-, v, n, h⟩ := countStep_cases dir s <;> rw [h]
  · exact hi
  · exact inv_congr (setCount_inv hi v) rfl rfl rfl rfl rfl

/-- A platform reset starts from no write step and no options; the counter's registers are drawn within their width
(70_reset_and_hazards.md R191). -/
theorem platformReset_inv {s : State} (hi : Inv s) : Inv (platformReset s) := by
  have hlaunch : Inv (State.launch s.params (drawnPremises (s.draws + 6)) (drawnTimer s.params s.draws)) :=
    launch_inv (params_wellFormed_iff.mp hi.aligned) (and_mask_and_not _ _) (and_mask_and_not _ _)
  exact inv_congr hlaunch rfl rfl rfl rfl rfl

/-! A pending write step under the invariant. Where the sequence goes on after it, it is one of W1 to W5. -/

theorem goes_on_or_eq_w6 (k : WriteStep) :
    (k.next.pending.isSome = true ∧ k.next ≠ .counting ∧ .cr1 ≠ k.reg) ∨ k = .w6 := by
  cases k <;> decide

theorem next_bne_notConfigured {p : Phase} {k : WriteStep} (hp : p.pending = some k) :
    (p != .notConfigured) = (k.next != .notConfigured) := by
  cases p <;> cases hp <;> rfl

/-- After W6 the counter is enabled (40_configure.md R117). -/
theorem cen_afterStep_w6 (s : State) : cen (afterStep .w6 s) = true :=
  beq_iff_eq.mpr (afterStep_getField .w6 s (.cen, 1) (.head _))

/-- A step that does not write CR1 keeps CEN. -/
theorem cen_afterStep_of_ne {k : WriteStep} (hk : .cr1 ≠ k.reg) (s : State) : cen (afterStep k s) = cen s :=
  congrArg (getField .cen · == 1#32) (afterStep_get_other k s hk)

/-- The step's own fields hold by its write, those of the earlier steps because it keeps them (20_memory.md R64). -/
theorem fieldsHold_afterStep {s : State} {k : WriteStep} (hi : Inv s) (hp : s.seq.phase.pending = some k) :
    ∀ j ∈ k.next.done, FieldsHold (latchedCode s) j (afterStep k s).tim := by
  obtain ⟨hdone, hearlier⟩ := done_next hp
  intro j hj e he
  rw [hdone, List.mem_append, List.mem_singleton] at hj
  obtain hj | rfl := hj
  · rw [afterStep_keeps_earlier (hearlier ▸ hj) s e he]
    exact hi.fields_hold j hj e he
  · exact afterStep_getField j s e he

theorem afterStep_inv {s : State} {k : WriteStep} (hi : Inv s) (hp : s.seq.phase.pending = some k) :
    Inv (afterStep k s) where
  aligned := hi.aligned
  log_is_steps := by
    show s.seq.log ++ [k.entry (latchedCode s)] = k.next.done.map (fun j => j.entry (latchedCode s))
    rw [hi.log_is_steps, (done_next hp).1, List.map_append, List.map_singleton]
  mode_latched := hi.mode_latched.trans (next_bne_notConfigured hp)
  arr_latched := hi.arr_latched.trans (next_bne_notConfigured hp)
  waits_in_sequence := by
    show (if k.next = .counting then none else s.waiting).isSome = k.next.pending.isSome
    obtain ⟨hgoes_on, hne, -⟩ | rfl := goes_on_or_eq_w6 k
    · rw [if_neg hne, hi.waits_in_sequence, hp, hgoes_on, Option.isSome_some]
    · rfl
  mark_is_reported := hi.mark_is_reported
  disabled_in_sequence h := by
    obtain ⟨-, -, hreg⟩ | rfl := goes_on_or_eq_w6 k
    · rw [cen_afterStep_of_ne hreg, hi.disabled_in_sequence (by rw [hp]; rfl)]
    · cases h
  enabled_when_counting h := by
    obtain ⟨-, hne, -⟩ | rfl := goes_on_or_eq_w6 k
    · exact absurd h hne
    · exact cen_afterStep_w6 s
  fields_hold := fieldsHold_afterStep hi hp
  cnt_fits := by
    rw [afterStep_cnt]
    exact hi.cnt_fits
  arr_fits := by
    rw [afterStep_arr]
    exact hi.arr_fits

theorem sequencerStep_inv {s : State} (hi : Inv s) : Inv (sequencerStep s) := by
  obtain ⟨-, h⟩ | ⟨k, hp, -, h⟩ | ⟨-, -, -, h⟩ := sequencerStep_cases s <;> rw [h]
  · exact hi
  · exact afterStep_inv hi hp
  · exact refuse_inv hi .misaligned

/-! A run, step by step. -/

theorem core_run_succ {s t : State} (h : step s = .next t) (n : Nat) : core.run (n + 1) s = core.run n t := by
  have hcore : core.step s = .next t := h
  simp only [Host.Core.run, hcore]

/-! The statements. -/

/-- Settles O44, by the cases of a step: taking the turn keeps the invariant, and so does each move that can follow. -/
theorem stepKeepsTheInvariant : Obligations.StepKeepsTheInvariant := by
  unfold Obligations.StepKeepsTheInvariant
  intro s t hi h
  obtain ⟨u, hparams, hseq, htim, -, hwaiting, -, hreasons, hmove⟩ := step_cases h
  have hu : Inv u := inv_congr hi hparams hseq htim hwaiting hreasons
  obtain rfl | rfl | ⟨dir, rfl⟩ | ⟨e, rfl⟩ | ⟨m, a, hp, hl, rfl⟩ | ⟨-, rfl⟩ | ⟨-, rfl⟩ := hmove
  · exact hu
  · exact sequencerStep_inv hu
  · exact countStep_inv hu dir
  · exact refuse_inv hu e
  · exact acceptOptions_inv hu hp hl m a
  · exact inv_congr hu rfl rfl rfl rfl rfl
  · exact platformReset_inv hu

/-- Settles O13: `step_of_read` twice; the first READ changes neither the phase nor the timer that the second one reads. -/
theorem readsOfTwoContextsAgree : Obligations.ReadsOfTwoContextsAgree := by
  unfold Obligations.ReadsOfTwoContextsAgree
  intro s c d rest hp hbase hs
  have hw : s.params.wellFormed = true := params_wellFormed_iff.mpr hbase
  obtain ⟨hu16, hnative16, hnative32⟩ := readResult_widths s.params s.tim.cnt
  have hfirst := step_of_read hp hw hs
  have hsecond := step_of_read
    (s := respond (readResult s.params s.tim.cnt) (takeCommand c (.host d 0x20000000#32 :: rest) s)) hp hw rfl
  exact ⟨_, _, (core_run_succ hfirst 1).trans (core_run_succ hsecond 0), List.append_assoc .., hu16, hnative16, hnative32,
    rfl, rfl, rfl⟩

/-- Settles O21, by the three rules of a field write: its own fields, the earlier ones, and the other bits. -/
theorem writeStepSetsNamedFieldsOnly : Obligations.WriteStepSetsNamedFieldsOnly := by
  unfold Obligations.WriteStepSetsNamedFieldsOnly
  intro s k hp hbase
  rw [sequencerStep_eq (params_wellFormed_iff.mpr hbase) hp]
  exact ⟨afterStep_getField k s, fun j hj => afterStep_keeps_earlier hj s, afterStep_preserves_outside k⟩

/-- Settles O22: `busByte_afterStep` for the bytes; no other part named here is written by `afterStep`. -/
theorem writeStepLeavesOtherBytes : Obligations.WriteStepLeavesOtherBytes := by
  unfold Obligations.WriteStepLeavesOtherBytes
  intro s k hp hbase
  rw [sequencerStep_eq (params_wellFormed_iff.mpr hbase) hp]
  exact ⟨fun a ha => busByte_afterStep ha, rfl, rfl, rfl, rfl, rfl, rfl, rfl, rfl, rfl⟩

/-- Settles O23: a register is aligned exactly as TIM_BASE is, and both accesses check it before they do anything. -/
theorem misalignedAccessIsRefused : Obligations.MisalignedAccessIsRefused := by
  unfold Obligations.MisalignedAccessIsRefused
  refine ⟨offset_toNat_mod_four, fun p r hbase => (busAddr_toNat_mod_four p r).trans hbase, fun s hbase hpending => ?_,
    fun s hbase hp => execRead_of_misaligned hp (not_isAligned_of_base hbase .cnt)⟩
  obtain ⟨k, hp⟩ := Option.isSome_iff_exists.mp hpending
  exact sequencerStep_of_misaligned hp (not_isAligned_of_base hbase k.reg)

/-- Settles O24: `busByte_of_reg`. -/
theorem byteViewIsLittleEndian : Obligations.ByteViewIsLittleEndian := by
  unfold Obligations.ByteViewIsLittleEndian
  intro s r i hi
  rw [add_assoc]
  exact busByte_of_reg s r hi

/-- Settles O52: each phase names its pending step and so the one register that can change; commands change none. -/
theorem operationsReachTheirRegistersOnly : Obligations.OperationsReachTheirRegistersOnly := by
  unfold Obligations.OperationsReachTheirRegistersOnly
  refine ⟨fun s => ⟨?_, ?_, ?_, ?_, ?_⟩, fun i s t => exec_tim, fun s t x => execRead_withTimer⟩
  · rintro (h | h)
    · exact sequencerStep_tim_of_pending (k := .w1) (congrArg Phase.pending h)
    · exact sequencerStep_tim_of_pending (k := .w2) (congrArg Phase.pending h)
  · rintro (h | h)
    · exact sequencerStep_tim_of_pending (k := .w3) (congrArg Phase.pending h)
    · exact sequencerStep_tim_of_pending (k := .w4) (congrArg Phase.pending h)
  · exact fun h => sequencerStep_tim_of_pending (k := .w5) (congrArg Phase.pending h)
  · exact fun h => sequencerStep_tim_of_pending (k := .w6) (congrArg Phase.pending h)
  · rintro (h | h) <;> rw [sequencerStep_of_not_pending (congrArg Phase.pending h)]

end Sys2Proof.Machine
end

section
/-! PROOFS. Family 30_encoding: the command words, the slave-mode code, and what counting does not depend on. First the
fields of a word, then what decode answers for them, then what a host's turn does with the answer. -/

namespace Sys2Proof.Machine

/-! A command word field by field (30_encoding.md R81). -/

/-- A word is a concatenation exactly if its fields are the parts. -/
theorem eq_append_iff {m n : Nat} {w : BitVec (m + n)} {x : BitVec m} {y : BitVec n} :
    w = x ++ y ↔ w.extractLsb' n m = x ∧ w.extractLsb' 0 n = y := by
  constructor
  · rintro rfl
    exact ⟨BitVec.extractLsb'_append_eq_left, BitVec.extractLsb'_append_eq_right⟩
  · rintro ⟨rfl, rfl⟩
    exact BitVec.extractLsb'_append_extractLsb'.symm

/-- A field of a field is a field of the word. -/
theorem extractLsb'_extractLsb' {n start len start' len' : Nat} (w : BitVec n) (h : start' + len' ≤ len) :
    (w.extractLsb' start len).extractLsb' start' len' = w.extractLsb' (start + start') len' := by
  ext i hi
  have hin : start' + i < len := by omega
  simp [hin, Nat.add_assoc]

/-- The fields of a CONFIGURE word, OP and RSV1 together as its upper 12 bits. -/
theorem encode_configure (mode : BitVec 4) (arr : BitVec 16) :
    encode (.configure mode arr) = 0x100#12 ++ mode ++ arr := by
  rw [← BitVec.setWidth_eq (0x100#12 ++ mode ++ arr), BitVec.setWidth_append_append_eq_shiftLeft_setWidth_or]
  rfl

/-- A word is that of a CONFIGURE exactly if its upper bits say so and its operand fields hold the operands. -/
theorem eq_encode_configure_iff {w : Word} {mode : BitVec 4} {arr : BitVec 16} :
    w = encode (.configure mode arr) ↔
      w.extractLsb' 20 12 = 0x100#12 ∧ w.extractLsb' 16 4 = mode ∧ w.extractLsb' 0 16 = arr := by
  have hlow := eq_append_iff (w := w) (x := 0x100#12 ++ mode) (y := arr)
  have hhigh := eq_append_iff (w := w.extractLsb' 16 16) (x := 0x100#12) (y := mode)
  rw [extractLsb'_extractLsb' w (by decide), extractLsb'_extractLsb' w (by decide)] at hhigh
  rw [encode_configure, ← and_assoc]
  exact hlow.trans (and_congr_left' hhigh)

/-- The mask of R83 keeps the upper 12 bits. -/
theorem configure_mask_iff {w : Word} :
    w &&& 0xFFF00000#32 = 0x10000000#32 ↔ w.extractLsb' 20 12 = 0x100#12 := by
  have hmask : w &&& 0xFFF00000#32 = w.extractLsb' 20 12 ++ 0#20 := by
    calc w &&& 0xFFF00000#32
      _ = (w.extractLsb' 20 12 ++ w.extractLsb' 0 20) &&& (BitVec.allOnes 12 ++ 0#20) := by
        rw [BitVec.extractLsb'_append_extractLsb' (w := 12) (len := 20)]
        rfl
      _ = w.extractLsb' 20 12 ++ 0#20 := by
        rw [BitVec.and_append, BitVec.and_allOnes, BitVec.and_zero]
  rw [hmask]
  exact BitVec.append_left_inj (s₂ := 0x100#12) 0#20

theorem configure_fields_iff {w : Word} :
    w.extractLsb' 20 12 = 0x100#12 ↔ w.extractLsb' 28 4 = 0b0001#4 ∧ w.extractLsb' 20 8 = 0#8 := by
  have hparts := eq_append_iff (w := w.extractLsb' 20 12) (x := 0b0001#4) (y := 0#8)
  rwa [extractLsb'_extractLsb' w (by decide), extractLsb'_extractLsb' w (by decide)] at hparts

theorem read_fields_iff {w : Word} :
    w = encode .read ↔ w.extractLsb' 28 4 = 0b0010#4 ∧ w.extractLsb' 0 28 = 0#28 :=
  eq_append_iff (x := 0b0010#4) (y := 0#28)

/-! The decoder (30_encoding.md R83). -/

/-- All decode can answer. -/
theorem decode_cases (w : Word) :
    (w.extractLsb' 20 12 = 0x100#12 ∧
      decode w = .command (.configure (w.extractLsb' 16 4) (w.extractLsb' 0 16))) ∨
    (w = encode .read ∧ decode w = .command .read) ∨
    (w.extractLsb' 20 12 ≠ 0x100#12 ∧ w ≠ encode .read ∧ decode w = .reserved w) := by
  unfold decode
  split
  case isTrue hconfigure => exact .inl ⟨configure_mask_iff.mp hconfigure, rfl⟩
  case isFalse hconfigure =>
    split
    case isTrue hread => exact .inr (.inl ⟨hread, rfl⟩)
    case isFalse hread => exact .inr (.inr ⟨configure_mask_iff.not.mp hconfigure, hread, rfl⟩)

theorem decode_encode (i : Instr) : decode (encode i) = .command i := by
  cases i with
  | configure mode arr =>
    obtain ⟨hupper, hmode, harr⟩ := eq_encode_configure_iff.mp (Eq.refl (encode (.configure mode arr)))
    rw [decode, if_pos (configure_mask_iff.mpr hupper), hmode, harr]
  | read => rfl

theorem eq_encode_of_decode {w : Word} {i : Instr} (h : decode w = .command i) : w = encode i := by
  obtain ⟨hupper, h'⟩ | ⟨hread, h'⟩ | ⟨-, -, h'⟩ := decode_cases w <;> cases h'.symm.trans h
  · exact eq_encode_configure_iff.mpr ⟨hupper, rfl, rfl⟩
  · exact hread

/-- A word is reserved exactly if it is the word of no command. -/
theorem decode_eq_reserved_iff {w : Word} :
    decode w = .reserved w ↔ w.extractLsb' 20 12 ≠ 0x100#12 ∧ w ≠ encode .read := by
  constructor
  · intro h
    obtain ⟨-, h'⟩ | ⟨-, h'⟩ | ⟨hconfigure, hread, -⟩ := decode_cases w
    · exact nomatch h'.symm.trans h
    · exact nomatch h'.symm.trans h
    · exact ⟨hconfigure, hread⟩
  · rintro ⟨hconfigure, hread⟩
    obtain ⟨hupper, -⟩ | ⟨hw, -⟩ | ⟨-, -, h⟩ := decode_cases w
    · exact absurd hupper hconfigure
    · exact absurd hw hread
    · exact h

/-! A host command, by what its word decodes to (60_exceptions.md R166). -/

theorem hostCommand_of_command {w : Word} {i : Instr} (h : decode w = .command i) (s : State) :
    hostCommand w s = exec i s := by
  simp [hostCommand, h]

theorem hostCommand_of_reserved {w u : Word} (h : decode w = .reserved u) (s : State) :
    hostCommand w s = .next (refuse .reservedWord s) := by
  simp [hostCommand, h]

/-! The slave-mode code (30_encoding.md R87 to R89). -/

theorem slaveModeOf_code (m : SlaveMode) : slaveModeOf m.code = m := by cases m <;> rfl

theorem code_slaveModeOf (c : BitVec 4) : (slaveModeOf c).code = c := by
  revert c
  decide

theorem split_eq_extractLsb (c : BitVec 4) : splitLo c = c.extractLsb' 0 3 ∧ splitHi c = c.extractLsb' 3 1 := by
  revert c
  decide

theorem joinCode_split (c : BitVec 4) : joinCode (splitHi c) (splitLo c) = c := by
  obtain ⟨hlo, hhi⟩ := split_eq_extractLsb c
  rw [joinCode, hlo, hhi]
  exact BitVec.extractLsb'_append_extractLsb' (w := 1) (len := 3)

/-! Counting with other inputs (30_encoding.md R90). -/

/-- The state with another mode latched and other values in the registers of the input stage. -/
def withInputs (m : Option (BitVec 4)) (smcr ccmr1 ccer : Word) (s : State) : State :=
  { s with seq := { s.seq with mode := m }, tim := { s.tim with smcr := smcr, ccmr1 := ccmr1, ccer := ccer } }

/-- CEN, the count and the boundary are all a count looks at, and none of them is an input. -/
theorem countStep_withInputs (m : Option (BitVec 4)) (smcr ccmr1 ccer : Word) (dir : CountDir) (s : State) :
    countStep dir (withInputs m smcr ccmr1 ccer s) = withInputs m smcr ccmr1 ccer (countStep dir s) := by
  have hcen : cen (withInputs m smcr ccmr1 ccer s) = cen s := rfl
  have hcount : countOf (withInputs m smcr ccmr1 ccer s) = countOf s := rfl
  have hreload : reloadOf (withInputs m smcr ccmr1 ccer s) = reloadOf s := rfl
  unfold countStep
  rw [hcen, hcount, hreload]
  split
  · split <;> rfl
  · rfl

/-! The statements. -/

/-- Settles O5: `decode_encode`, of which well-formedness asks nothing. -/
theorem decodeReadsBackEveryCommand : Obligations.DecodeReadsBackEveryCommand := by
  unfold Obligations.DecodeReadsBackEveryCommand
  exact fun i _ => decode_encode i

/-- Settles O6: `eq_encode_of_decode`. -/
theorem commandHasOneWord : Obligations.CommandHasOneWord := by
  unfold Obligations.CommandHasOneWord
  exact fun w i h => (eq_encode_of_decode h).symm

/-- Settles O7: a word is reserved where neither command's fields match, which the split by OP makes the three listed
kinds; its turn goes to `refuse`. -/
theorem reservedWordsAreTheListedAndRefused : Obligations.ReservedWordsAreTheListedAndRefused := by
  unfold Obligations.ReservedWordsAreTheListedAndRefused
  refine ⟨fun w => ?_, fun s ctx w rest hs hb hd => ?_⟩
  · rw [decode_eq_reserved_iff, ne_eq, ne_eq, configure_fields_iff, read_fields_iff]
    by_cases h1 : w.extractLsb' 28 4 = 0b0001#4
    · simp [h1]
    · by_cases h2 : w.extractLsb' 28 4 = 0b0010#4
      · simp [h2]
      · simp [h1, h2]
  · rw [step_of_free_host hs hb, hostCommand_of_reserved hd]
    rfl

/-- Settles O8: the line's word is `encode` of its command, in which the default options stand for omitted operands. -/
theorem assembledConfigureTakesDefaults : Obligations.AssembledConfigureTakesDefaults := by
  unfold Obligations.AssembledConfigureTakesDefaults
  exact fun ctx mode arr => ⟨_, rfl, decode_encode (asmConfigure mode arr)⟩

/-- Settles O30: `countStep_withInputs`, in which both updates of the statement are `withInputs`. -/
theorem countingIgnoresModeAndInputs : Obligations.CountingIgnoresModeAndInputs := by
  unfold Obligations.CountingIgnoresModeAndInputs
  exact fun s dir m smcr ccmr1 ccer => countStep_withInputs m smcr ccmr1 ccer dir s

/-- Settles O1: the turn of a free context is its host command, which is `exec` of what the word decodes to. -/
theorem stepRunsTheDecodedCommand : Obligations.StepRunsTheDecodedCommand := by
  unfold Obligations.StepRunsTheDecodedCommand
  intro s ctx w rest i hs hb hd _
  rw [step_of_free_host hs hb, hostCommand_of_command hd]
  rfl

/-- Settles O4: the first four words are those of their commands, the last two of none. -/
theorem tabulatedWordsDecode : Obligations.TabulatedWordsDecode := by
  unfold Obligations.TabulatedWordsDecode
  exact ⟨decode_encode (.configure 0b0011#4 0xFFFF#16), decode_encode (.configure 0b1010#4 0x0400#16),
    decode_encode (.configure 0b0000#4 0x0000#16), decode_encode .read,
    decode_eq_reserved_iff.mpr (by decide), decode_eq_reserved_iff.mpr (by decide)⟩

/-- Settles O49: the join of a pair determines it, so that splitting the join gives the pair back. -/
theorem splitAndJoinAreInverse : Obligations.SplitAndJoinAreInverse := by
  unfold Obligations.SplitAndJoinAreInverse
  refine ⟨split_eq_extractLsb, joinCode_split, fun hi lo => ?_⟩
  exact (joinCode_inj.mp (joinCode_split (joinCode hi lo))).symm

/-- Settles O50: the two round trips, and the first of them at EncoderMode3. -/
theorem slaveModeCodesNameEachVariantOnce : Obligations.SlaveModeCodesNameEachVariantOnce := by
  unfold Obligations.SlaveModeCodesNameEachVariantOnce
  exact ⟨slaveModeOf_code, code_slaveModeOf, slaveModeOf_code .encoderMode3⟩

end Sys2Proof.Machine
end

section
/-! PROOFS. Family 40_configure: when the sequencer moves, what the commands answer, what each of the six write steps
does, and the run from CONFIGURE to COUNTING. -/

namespace Sys2Proof.Machine

/-! When the sequencer moves (40_configure.md R119; 70_reset_and_hazards.md R205). -/

/-- No turn but the sequencer's can be taken: none is left, or the first is that of the context that waits. -/
def OnlySequencerMoves (s : State) : Prop :=
  s.schedule = [] ∨ ∃ ctx w rest, s.schedule = .host ctx w :: rest ∧ s.waiting = some ctx

theorem step_of_onlySequencerMoves {s : State} (hm : OnlySequencerMoves s)
    (hp : s.seq.phase.pending.isSome = true) : step s = .next (sequencerStep s) := by
  obtain hs | ⟨ctx, w, rest, hs, hw⟩ := hm
  · rw [step_of_no_turn hs, idleStep, inSequence, if_pos hp]
  · exact step_of_blocked_host hs (by simp [isBlocked, inSequence, hp, hw])

@[simp] theorem sequencerStep_schedule (s : State) : (sequencerStep s).schedule = s.schedule := by
  obtain ⟨-, h⟩ | ⟨k, -, -, h⟩ | ⟨k, -, -, h⟩ := sequencerStep_cases s <;> rw [h]
  · rfl
  · rfl

/-! CONFIGURE in each of its cases (40_configure.md R110), and all a command can do. -/

/-- CEN is one bit wide, so that it is 0 where it is not 1. -/
theorem cen_eq_false_iff {s : State} : cen s = false ↔ getField .cen s.tim.cr1 = 0 := by
  have hfits : (getField .cen s.tim.cr1).toNat < 2 := getField_toNat_lt .cen s.tim.cr1
  rw [cen, beq_eq_false_iff_ne, ne_eq, ← BitVec.toNat_inj, ← BitVec.toNat_inj]
  show ¬ (getField .cen s.tim.cr1).toNat = 1 ↔ (getField .cen s.tim.cr1).toNat = 0
  omega

/-- The four premises of 70_reset_and_hazards.md R196. -/
theorem launchPremisesHold_iff {s : State} :
    launchPremisesHold s = true ↔ s.premises = ⟨true, true, true⟩ ∧ getField .cen s.tim.cr1 = 0 := by
  rw [← cen_eq_false_iff]
  cases hpremises : s.premises with
  | mk bound pins exclusive =>
    simp only [launchPremisesHold, hpremises, Bool.and_eq_true, Bool.not_eq_true', Premises.mk.injEq]
    tauto

theorem execConfigure_of_accepted {s : State} (hp : s.seq.phase = .notConfigured) (hl : launchPremisesHold s = true)
    (m : BitVec 4) (a : BitVec 16) : execConfigure m a s = .next (acceptOptions m a s) := by
  simp [execConfigure, hp, hl]

theorem execConfigure_of_premise_violated {s : State} (hp : s.seq.phase = .notConfigured)
    (hl : launchPremisesHold s = false) (m : BitVec 4) (a : BitVec 16) :
    execConfigure m a s = .next (refuse .premiseViolated s) := by
  simp [execConfigure, hp, hl]

theorem execConfigure_of_not_idle {s : State} (hp : s.seq.phase ≠ .notConfigured) (m : BitVec 4) (a : BitVec 16) :
    execConfigure m a s = .next (refuse .configureNotIdle s) := by
  simp [execConfigure, hp]

/-- All a command can do: it is refused, CONFIGURE's options are latched, or READ's value is returned. -/
theorem exec_cases {i : Instr} {s t : State} (h : exec i s = .next t) :
    (∃ e, t = refuse e s) ∨ (∃ m a, i = .configure m a ∧ t = acceptOptions m a s) ∨
    (i = .read ∧ t = respond (readResult s.params s.tim.cnt) s) := by
  cases i with
  | configure m a =>
    obtain ⟨-, -, h'⟩ | ⟨-, -, h'⟩ | ⟨-, h'⟩ := execConfigure_cases m a s <;> cases h'.symm.trans h
    · exact .inr (.inl ⟨m, a, rfl, rfl⟩)
    · exact .inl ⟨_, rfl⟩
    · exact .inl ⟨_, rfl⟩
  | read =>
    obtain ⟨-, -, h'⟩ | ⟨-, -, h'⟩ | ⟨-, h'⟩ := execRead_cases s <;> cases h'.symm.trans h
    · exact .inr (.inr ⟨rfl, rfl⟩)
    · exact .inl ⟨_, rfl⟩
    · exact .inl ⟨_, rfl⟩

/-- CONFIGURE in NOT_CONFIGURED with the launch premises is accepted by the next step: no context is blocked there. -/
theorem step_of_configure {s : State} {ctx : Nat} {rest : List Turn} {m : BitVec 4} {a : BitVec 16}
    (hp : s.seq.phase = .notConfigured) (hl : launchPremisesHold s = true)
    (hs : s.schedule = .host ctx (encode (.configure m a)) :: rest) :
    step s = .next (acceptOptions m a (takeCommand ctx rest s)) := by
  have hb : isBlocked ctx s = false := by simp [isBlocked, inSequence, hp, Phase.pending]
  rw [step_of_free_host hs hb, hostCommand_of_command (decode_encode _)]
  exact execConfigure_of_accepted (s := takeCommand ctx rest s) hp hl m a

/-! The six write steps field by field (40_configure.md R112 to R117). -/

/-- The value step `k` leaves in its register that held `old`, `d` being the draw and `c` the latched code: under either
setting of OTHER_BITS the fields written, the fields kept (20_memory.md R64), and the rest. -/
def writtenValue (k : WriteStep) (ob : OtherBits) (d old : Word) (c : BitVec 4) : Word :=
  match k, ob with
  | .w1, .preserve => (old &&& ~~~0x00000003#32) ||| 0x00000001#32
  | .w1, .any => (d &&& ~~~0x00000003#32) ||| 0x00000001#32
  | .w2, .preserve => (old &&& ~~~0x00000300#32) ||| 0x00000100#32
  | .w2, .any => (d &&& ~~~0x00000303#32) ||| (old &&& 0x00000003#32) ||| 0x00000100#32
  | .w3, .preserve => old &&& ~~~0x0000000A#32
  | .w3, .any => d &&& ~~~0x0000000A#32
  | .w4, .preserve => old &&& ~~~0x000000A0#32
  | .w4, .any => (d &&& ~~~0x000000AA#32) ||| (old &&& 0x0000000A#32)
  | .w5, .preserve =>
    (old &&& ~~~0x00010007#32) ||| (((c.setWidth 32 &&& 0x8#32) <<< 13) ||| (c.setWidth 32 &&& 0x7#32))
  | .w5, .any =>
    (d &&& ~~~0x00010007#32) ||| (((c.setWidth 32 &&& 0x8#32) <<< 13) ||| (c.setWidth 32 &&& 0x7#32))
  | .w6, .preserve => (old &&& ~~~0x00000001#32) ||| 0x00000001#32
  | .w6, .any => (d &&& ~~~0x00000001#32) ||| 0x00000001#32

/-- The field values of a row, placed under the row's mask (30_encoding.md R96). -/
theorem placedValue_eq (c : BitVec 4) (k : WriteStep) :
    valueOf (k.fields c) &&& maskOf (k.fields c) = match k with
      | .w1 => 0x00000001#32 | .w2 => 0x00000100#32 | .w3 => 0#32 | .w4 => 0#32
      | .w5 => ((c.setWidth 32 &&& 0x8#32) <<< 13) ||| (c.setWidth 32 &&& 0x7#32) | .w6 => 0x00000001#32 := by
  revert c
  cases k <;> decide

theorem mergeBits_fields (k : WriteStep) (ob : OtherBits) (d old : Word) (c : BitVec 4) :
    mergeBits ob d old (maskOf (k.fields c)) k.keptMask (valueOf (k.fields c)) = writtenValue k ob d old c := by
  simp only [mergeBits, placedValue_eq]
  rw [maskOf_fields, keptMask_eq]
  cases k <;> cases ob <;> simp [writtenValue]

theorem draws_add_drawsOfWrite (n : Nat) (p : Params) :
    n + drawsOfWrite p = match p.otherBits with | .preserve => n | .any => n + 1 := by
  unfold drawsOfWrite
  cases p.otherBits <;> rfl

/-- The pending write step at an aligned block, `v` being the value it leaves in its register. -/
theorem sequencerStep_eq_of_value {s : State} {k : WriteStep} (hp : s.seq.phase.pending = some k)
    (hbase : s.params.timBase.toNat % 4 = 0) {v : Word}
    (hv : writtenValue k s.params.otherBits (Config.freeWord s.draws) (s.tim.get k.reg) (latchedCode s) = v) :
    sequencerStep s = { s with
      tim := s.tim.set k.reg v
      seq := { s.seq with phase := k.next, log := s.seq.log ++ [k.entry (latchedCode s)] }
      waiting := if k.next = .counting then none else s.waiting
      draws := match s.params.otherBits with | .preserve => s.draws | .any => s.draws + 1 } := by
  rw [sequencerStep_eq (params_wellFormed_iff.mpr hbase) hp, ← hv, ← mergeBits_fields, ← draws_add_drawsOfWrite]
  rfl

/-- W5's log entry with the field values as 40_configure.md R122 writes them. -/
theorem entry_w5 (c : BitVec 4) : WriteStep.entry c .w5 =
    ⟨.smcr, [(.smsLo, c.setWidth 32 &&& 0x7#32), (.smsHi, if c &&& 0x8#4 ≠ 0 then 1 else 0)]⟩ := by
  obtain ⟨hlo, hhi, -⟩ := split_setWidth c
  rw [WriteStep.entry, WriteStep.fields, hlo, hhi]
  rfl

/-! The sequence from SEQ1 to COUNTING (40_configure.md R120 to R123). -/

/-- The bits of a register that the write steps name (30_encoding.md R92, R96). -/
def namedBits : Reg → Word
  | .cr1 => 0x00000001#32
  | .smcr => 0x00010007#32
  | .ccmr1 => 0x00000303#32
  | .ccer => 0x000000AA#32
  | .cnt => 0#32
  | .arr => 0#32

/-- What the sequence that began in state `u` has done by state `s`: the log has the entries of the steps taken, every
field they wrote holds its value, under PRESERVE no other bit has changed, and the rest named here is as it was. -/
structure SequenceFrom (u s : State) : Prop where
  params : s.params = u.params
  schedule : s.schedule = u.schedule
  waiting : s.seq.phase.pending.isSome = true → s.waiting = u.waiting
  mode : s.seq.mode = u.seq.mode
  refused : s.seq.refused = u.seq.refused
  log : s.seq.log = u.seq.log ++ s.seq.phase.done.map (WriteStep.entry (latchedCode u))
  fields : ∀ k ∈ s.seq.phase.done, FieldsHold (latchedCode u) k s.tim
  cnt : s.tim.cnt = u.tim.cnt
  arr : s.tim.arr = u.tim.arr
  preserves : u.params.otherBits = .preserve → ∀ r, s.tim.get r &&& ~~~namedBits r = u.tim.get r &&& ~~~namedBits r

theorem SequenceFrom.start {u : State} (hp : u.seq.phase = .seq1) : SequenceFrom u u where
  params := rfl
  schedule := rfl
  waiting _ := rfl
  mode := rfl
  refused := rfl
  log := by
    rw [hp]
    exact (List.append_nil _).symm
  fields := by
    rw [hp]
    nofun
  cnt := rfl
  arr := rfl
  preserves _ _ := rfl

/-- `fieldsHold_afterStep` for a state that need not meet the invariant. -/
theorem fieldsHold_afterStep_of_earlier {s : State} {k : WriteStep}
    (h : ∀ j ∈ k.earlier, FieldsHold (latchedCode s) j s.tim) :
    ∀ j ∈ k.earlier ++ [k], FieldsHold (latchedCode s) j (afterStep k s).tim := by
  intro j hj e he
  rw [List.mem_append, List.mem_singleton] at hj
  obtain hj | rfl := hj
  · rw [afterStep_keeps_earlier hj s e he]
    exact h j hj e he
  · exact afterStep_getField j s e he

/-- Under PRESERVE a write step keeps every bit that no step names. -/
theorem afterStep_preserves_unnamed (k : WriteStep) {s : State} (hob : s.params.otherBits = .preserve) (r : Reg) :
    (afterStep k s).tim.get r &&& ~~~namedBits r = s.tim.get r &&& ~~~namedBits r := by
  by_cases hr : r = k.reg
  · subst hr
    have hunnamed : ~~~namedBits k.reg &&& maskOf (k.fields (latchedCode s)) = 0 := by
      rw [maskOf_fields]
      cases k <;> decide
    rw [afterStep_get_same, hob]
    exact mergeBits_and_outside _ _ _ _ _ _ hunnamed
  · rw [afterStep_get_other k s hr]

theorem SequenceFrom.write {u s : State} {k : WriteStep} (h : SequenceFrom u s)
    (hp : s.seq.phase.pending = some k) : SequenceFrom u (afterStep k s) := by
  obtain ⟨hdone, hearlier⟩ := done_next hp
  have hcode : latchedCode s = latchedCode u := by rw [latchedCode, h.mode, latchedCode]
  exact {
    params := h.params
    schedule := h.schedule
    waiting := fun hnext => by
      obtain ⟨-, hne, -⟩ | rfl := goes_on_or_eq_w6 k
      · exact (if_neg hne).trans (h.waiting (by rw [hp]; rfl))
      · cases hnext
    mode := h.mode
    refused := h.refused
    log := by
      show s.seq.log ++ [k.entry (latchedCode s)] = u.seq.log ++ k.next.done.map (WriteStep.entry (latchedCode u))
      rw [h.log, hdone, hcode, List.map_append, List.append_assoc, List.map_singleton]
    fields := by
      show ∀ j ∈ k.next.done, _
      rw [hdone, ← hearlier, ← hcode]
      refine fieldsHold_afterStep_of_earlier ?_
      rw [hearlier, hcode]
      exact h.fields
    cnt := (afterStep_cnt k s).trans h.cnt
    arr := (afterStep_arr k s).trans h.arr
    preserves := fun hob r => (afterStep_preserves_unnamed k (h.params ▸ hob) r).trans (h.preserves hob r) }

theorem pending_of_code {p : Phase} (hcode : p.code.toNat < 7) (hp : p ≠ .notConfigured) :
    ∃ k, p.pending = some k := by
  cases p with
  | notConfigured => exact absurd rfl hp
  | counting => exact absurd hcode (by decide)
  | seq1 | seq2 | seq3 | seq4 | seq5 | seq6 => exact ⟨_, rfl⟩

theorem counting_of_code {p : Phase} (hcode : p.code.toNat = 7) : p = .counting := by
  cases p with
  | counting => rfl
  | notConfigured | seq1 | seq2 | seq3 | seq4 | seq5 | seq6 => exact absurd hcode (by decide)

theorem next_ne_notConfigured (k : WriteStep) : k.next ≠ .notConfigured := by cases k <;> decide

/-- Where only the sequencer moves, the sequence ends in COUNTING after one step for each write step left: the phase's
code grows by one with each. -/
theorem run_sequence {u s : State} {n : Nat} (hw : u.params.wellFormed = true) (hm : OnlySequencerMoves u)
    (h : SequenceFrom u s) (hstarted : s.seq.phase ≠ .notConfigured) (hn : s.seq.phase.code.toNat + n = 7) :
    ∃ t, core.run n s = .next t ∧ t.seq.phase = .counting ∧ SequenceFrom u t := by
  induction n generalizing s with
  | zero => exact ⟨s, rfl, counting_of_code hn, h⟩
  | succ n ih =>
    obtain ⟨k, hp⟩ := pending_of_code (by omega) hstarted
    have hpending : s.seq.phase.pending.isSome = true := by rw [hp]; rfl
    have hmoves : OnlySequencerMoves s := by
      rw [OnlySequencerMoves, h.schedule, h.waiting hpending]
      exact hm
    have hstep : step s = .next (afterStep k s) := by
      rw [step_of_onlySequencerMoves hmoves hpending, sequencerStep_eq (h.params ▸ hw) hp]
    have hcode : k.next.code.toNat + n = 7 := by
      rw [code_next_of_pending hp]
      omega
    rw [core_run_succ hstep]
    exact ih (h.write hp) (next_ne_notConfigured k) hcode

/-! The statements. -/

/-- Settles O10: CONFIGURE in its three cases, which the premises decide by `launchPremisesHold_iff`. -/
theorem configureAcceptsOrRefuses : Obligations.ConfigureAcceptsOrRefuses := by
  unfold Obligations.ConfigureAcceptsOrRefuses
  intro m a s
  refine ⟨fun hp hpremises hcen => ?_, fun hp => execConfigure_of_not_idle hp m a, fun hp hfails => ?_⟩
  · exact execConfigure_of_accepted hp (launchPremisesHold_iff.mpr ⟨hpremises, hcen⟩) m a
  · refine execConfigure_of_premise_violated hp (Bool.eq_false_iff.mpr ?_) m a
    rw [ne_eq, launchPremisesHold_iff, not_and_or]
    exact hfails

/-- Settles O14: none of the three things a command can do touches the timer or the parameters, of which the bytes are
made, and each leaves the rest that is named for it. -/
theorem commandsLeaveTheTimerAlone : Obligations.CommandsLeaveTheTimerAlone := by
  unfold Obligations.CommandsLeaveTheTimerAlone
  intro i s t h
  obtain ⟨e, rfl⟩ | ⟨m, a, rfl, rfl⟩ | ⟨rfl, rfl⟩ := exec_cases h
  · exact ⟨rfl, fun _ => rfl, rfl, rfl, rfl, rfl, rfl, rfl, fun _ => ⟨rfl, rfl, rfl, rfl⟩, fun _ => rfl⟩
  · exact ⟨rfl, fun _ => rfl, rfl, rfl, rfl, rfl, rfl, rfl, nofun, fun _ => rfl⟩
  · exact ⟨rfl, fun _ => rfl, rfl, rfl, rfl, rfl, rfl, rfl, fun _ => ⟨rfl, rfl, rfl, rfl⟩, fun hne => absurd rfl hne⟩

/-- Settles O19: row W5 of `writtenValue`; the code the timer sees is that of `slaveModeFieldsAreWrittenByW5Only`. -/
theorem slaveModeStep : Obligations.SlaveModeStep := by
  unfold Obligations.SlaveModeStep
  intro s c hp hm hbase
  have hcode : latchedCode s = c := by simp [latchedCode, hm]
  obtain ⟨hw5, -⟩ := slaveModeFieldsAreWrittenByW5Only
  obtain ⟨-, -, hseen⟩ := hw5 s c hp hm hbase
  refine ⟨?_, hseen⟩
  rw [← entry_w5, ← hcode]
  exact sequencerStep_eq_of_value (k := .w5) (congrArg Phase.pending hp) hbase (by cases s.params.otherBits <;> rfl)

/-- Settles O20: row W6 of `writtenValue`; of the moves of a step only W6 writes CR1, and it sets CEN. -/
theorem counterEnableStep : Obligations.CounterEnableStep := by
  unfold Obligations.CounterEnableStep
  refine ⟨fun s hp hbase => ?_, fun s t h hr hc => ?_⟩
  · have hpending : s.seq.phase.pending = some .w6 := congrArg Phase.pending hp
    refine ⟨sequencerStep_eq_of_value hpending hbase (by cases s.params.otherBits <;> rfl), ?_⟩
    rw [sequencerStep_eq (params_wellFormed_iff.mpr hbase) hpending]
    exact cen_afterStep_w6 s
  · obtain ⟨u, -, htim, -, hmove⟩ := step_is_move h hr
    rw [← cen_congr htim] at hc
    cases hmove with
    | stay | refuse | count | accept | respond => exact hc
    | @write k =>
      obtain ⟨-, -, hreg⟩ | rfl := goes_on_or_eq_w6 k
      · rw [cen_afterStep_of_ne hreg, hc]
      · exact cen_afterStep_w6 u

/-- Settles O45: the first step accepts the options, and `run_sequence` takes the six write steps from there; what they
have done is read off `SequenceFrom` in COUNTING. -/
theorem configureRunsToCounting : Obligations.ConfigureRunsToCounting := by
  unfold Obligations.ConfigureRunsToCounting
  intro s ctx c a hp hpremises hcen hbase hs
  have haccepted : step s = .next (acceptOptions c a (takeCommand ctx [] s)) :=
    step_of_configure hp (launchPremisesHold_iff.mpr ⟨hpremises, hcen⟩) hs
  obtain ⟨t, hrun, hcounting, h⟩ := run_sequence (u := acceptOptions c a (takeCommand ctx [] s)) (n := 6)
    (params_wellFormed_iff.mpr hbase) (.inl rfl) (.start rfl) nofun rfl
  have hfields (k : WriteStep) : FieldsHold c k t.tim :=
    h.fields k (by rw [hcounting]; cases k <;> decide)
  obtain ⟨hlo, hhi, -⟩ := split_setWidth c
  refine ⟨t, (core_run_succ haccepted 6).trans hrun, hcounting, h.mode, h.refused, ?_,
    hfields .w1 (.cc1s, direct) (.head _), hfields .w2 (.cc2s, direct) (.head _),
    hfields .w3 (.cc1p, 0) (.head _), hfields .w3 (.cc1np, 0) (.tail _ (.head _)),
    hfields .w4 (.cc2p, 0) (.head _), hfields .w4 (.cc2np, 0) (.tail _ (.head _)),
    (hfields .w5 (.smsLo, (splitLo c).setWidth 32) (.head _)).trans hlo,
    (hfields .w5 (.smsHi, (splitHi c).setWidth 32) (.tail _ (.head _))).trans hhi,
    hfields .w6 (.cen, 1) (.head _), h.cnt, h.arr, fun hob => ?_⟩
  · rw [h.log, hcounting, ← entry_w5]
    rfl
  · have hkept := h.preserves hob
    exact ⟨hkept .ccmr1, hkept .ccer, hkept .smcr, hkept .cr1⟩

/-- Settles O2: `step_of_onlySequencerMoves` with the waiting context's turn first. -/
theorem blockedCallerWaitsForTheSequencer : Obligations.BlockedCallerWaitsForTheSequencer := by
  unfold Obligations.BlockedCallerWaitsForTheSequencer
  intro s ctx w rest hs hp hw
  exact ⟨step_of_onlySequencerMoves (.inr ⟨ctx, w, rest, hs, hw⟩) hp, (sequencerStep_schedule s).trans hs⟩

/-- Settles O3, by the three rules of the sequencer's turn, of no turn left, and of no step pending. -/
theorem sequencerMovesAtItsTurn : Obligations.SequencerMovesAtItsTurn := by
  unfold Obligations.SequencerMovesAtItsTurn
  exact fun s => ⟨fun rest hs => step_of_sequencer hs, fun hs hp => step_of_onlySequencerMoves (.inl hs) hp,
    sequencerStep_of_not_pending⟩

/-- Settles O15: row W1 of `writtenValue`. -/
theorem inputSelectOneStep : Obligations.InputSelectOneStep := by
  unfold Obligations.InputSelectOneStep
  intro s hp hbase
  exact sequencerStep_eq_of_value (k := .w1) (congrArg Phase.pending hp) hbase (by cases s.params.otherBits <;> rfl)

/-- Settles O16: row W2 of `writtenValue`; CC1S is a field of W1, an earlier step. -/
theorem inputSelectTwoStep : Obligations.InputSelectTwoStep := by
  unfold Obligations.InputSelectTwoStep
  intro s hp hbase
  have hpending : s.seq.phase.pending = some .w2 := congrArg Phase.pending hp
  refine ⟨sequencerStep_eq_of_value hpending hbase (by cases s.params.otherBits <;> rfl), ?_⟩
  rw [sequencerStep_eq (params_wellFormed_iff.mpr hbase) hpending]
  exact afterStep_keeps_earlier (k := .w2) (j := .w1) (by decide) s (.cc1s, direct) (.head _)

/-- Settles O17: row W3 of `writtenValue`. -/
theorem polarityOneStep : Obligations.PolarityOneStep := by
  unfold Obligations.PolarityOneStep
  intro s hp hbase
  exact sequencerStep_eq_of_value (k := .w3) (congrArg Phase.pending hp) hbase (by cases s.params.otherBits <;> rfl)

/-- Settles O18: row W4 of `writtenValue`; CC1P and CC1NP are the fields of W3, an earlier step. -/
theorem polarityTwoStep : Obligations.PolarityTwoStep := by
  unfold Obligations.PolarityTwoStep
  intro s hp hbase
  have hpending : s.seq.phase.pending = some .w4 := congrArg Phase.pending hp
  refine ⟨sequencerStep_eq_of_value hpending hbase (by cases s.params.otherBits <;> rfl), ?_⟩
  have hkeeps := afterStep_keeps_earlier (k := .w4) (j := .w3) (by decide) s
  rw [sequencerStep_eq (params_wellFormed_iff.mpr hbase) hpending]
  exact ⟨hkeeps (.cc1p, 0) (.head _), hkeeps (.cc1np, 0) (.tail _ (.head _))⟩

end Sys2Proof.Machine
end

section
/-! PROOFS. Family 41_read: what READ answers in COUNTING, that nothing is answered before COUNTING, and the first READ
after CONFIGURE. -/

namespace Sys2Proof.Machine

/-- READ in COUNTING at an aligned block is answered (41_read.md R140). -/
theorem exec_read_of_counting {s : State} (hp : s.seq.phase = .counting) (hbase : s.params.timBase.toNat % 4 = 0) :
    exec .read s = .next (respond (readResult s.params s.tim.cnt) s) :=
  execRead_of_aligned hp (isAligned_of_wellFormed (params_wellFormed_iff.mpr hbase) .cnt)

/-! A run in two parts. -/

theorem core_run_add {s t : State} {m : Nat} (h : core.run m s = .next t) (n : Nat) :
    core.run (m + n) s = core.run n t := by
  induction m generalizing s with
  | zero =>
    cases h
    rw [Nat.zero_add]
  | succ m ih =>
    obtain ⟨u, hu⟩ := everyStepGoesOn s
    rw [core_run_succ hu] at h
    rw [Nat.succ_add, core_run_succ hu, ih h]

/-! No value is returned before COUNTING (41_read.md R145). -/

@[simp] theorem sequencerStep_responses (s : State) : (sequencerStep s).responses = s.responses := by
  obtain ⟨-, h⟩ | ⟨k, -, -, h⟩ | ⟨k, -, -, h⟩ := sequencerStep_cases s <;> rw [h]
  · rfl
  · rfl

@[simp] theorem countStep_responses (dir : CountDir) (s : State) : (countStep dir s).responses = s.responses := by
  obtain ⟨-, h⟩ | ⟨-, v, n, h⟩ := countStep_cases dir s <;> rw [h]
  rfl

/-- Of the moves of a step only the answer to READ returns a value, and it is made in COUNTING. -/
theorem step_responses_of_not_counting {s t : State} (h : step s = .next t) (hp : s.seq.phase ≠ .counting) :
    t.responses = s.responses := by
  obtain ⟨u, -, hseq, -, -, -, hresponses, -, hmove⟩ := step_cases h
  rw [← hresponses]
  obtain rfl | rfl | ⟨dir, rfl⟩ | ⟨e, rfl⟩ | ⟨m, a, -, -, rfl⟩ | ⟨hcounting, -⟩ | ⟨-, rfl⟩ := hmove
  · rfl
  · exact sequencerStep_responses u
  · exact countStep_responses dir u
  · exact refuse_responses e u
  · exact acceptOptions_responses m a u
  · exact absurd (hseq ▸ hcounting) hp
  · exact platformReset_responses u

/-- A step takes the phase no further than to the next one; a platform reset takes it back to the first. -/
theorem step_phase_code_le {s t : State} (h : step s = .next t) :
    t.seq.phase.code.toNat ≤ s.seq.phase.code.toNat + 1 := by
  by_cases hr : NoResetNext s
  · obtain hstays | hadvances := phaseAdvancesByOne s t h hr
    · rw [hstays]
      exact Nat.le_succ _
    · exact hadvances.le
  · obtain ⟨rest, hs⟩ : ∃ rest, s.schedule = .platformReset :: rest := by simpa [NoResetNext] using hr
    cases (step_of_platformReset hs).symm.trans h
    exact Nat.zero_le _

/-- A run of no more steps than there are phases left returns no value: each of its steps starts before COUNTING. -/
theorem core_run_responses {s t : State} {n : Nat} (h : core.run n s = .next t)
    (hn : s.seq.phase.code.toNat + n ≤ 7) : t.responses = s.responses := by
  induction n generalizing s with
  | zero =>
    cases h
    rfl
  | succ n ih =>
    obtain ⟨u, hu⟩ := everyStepGoesOn s
    rw [core_run_succ hu] at h
    have hcode := step_phase_code_le hu
    have hnot : s.seq.phase ≠ .counting := by
      intro hp
      have hlast : s.seq.phase.code.toNat = 7 := by rw [hp]; rfl
      omega
    exact (ih h (by omega)).trans (step_responses_of_not_counting hu hnot)

/-! The statements. -/

/-- Settles O11: READ's answer in COUNTING with its value at each width, and its refusal in any other phase. -/
theorem readReturnsTheCounter : Obligations.ReadReturnsTheCounter := by
  unfold Obligations.ReadReturnsTheCounter
  exact fun s => ⟨fun hp hbase => ⟨_, exec_read_of_counting hp hbase, readResult_widths s.params s.tim.cnt⟩,
    execRead_of_no_handle⟩

/-- Settles O12: the first READ changes neither the phase nor the timer that the second one reads. -/
theorem readTwiceReturnsTheSame : Obligations.ReadTwiceReturnsTheSame := by
  unfold Obligations.ReadTwiceReturnsTheSame
  intro s hp hbase
  have hsecond := exec_read_of_counting (s := respond (readResult s.params s.tim.cnt) s) hp hbase
  exact ⟨_, _, _, exec_read_of_counting hp hbase, hsecond, List.append_assoc .., rfl, rfl, rfl, rfl⟩

/-- Settles O46: the first step accepts the options, `run_sequence` takes the six write steps while the READ stays first
in the list, and the last step answers it; the sequence has left CNT and the responses alone. -/
theorem firstReadReturnsTheOldCount : Obligations.FirstReadReturnsTheOldCount := by
  unfold Obligations.FirstReadReturnsTheOldCount
  intro s ctx c a rest hp hpremises hcen hbase hs
  have haccepted := step_of_configure hp (launchPremisesHold_iff.mpr ⟨hpremises, hcen⟩) hs
  obtain ⟨t, hrun, hcounting, h⟩ :=
    run_sequence (u := acceptOptions c a (takeCommand ctx (.host ctx (encode .read) :: rest) s)) (n := 6)
      (params_wellFormed_iff.mpr hbase) (.inr ⟨ctx, encode .read, rest, rfl, rfl⟩) (.start rfl) nofun rfl
  have hresponses : t.responses = s.responses := (core_run_responses hrun (Nat.le_refl 7) :)
  have hparams : t.params = s.params := h.params
  have hcnt : t.tim.cnt = s.tim.cnt := h.cnt
  have hread := step_of_read hcounting (hparams ▸ params_wellFormed_iff.mpr hbase) h.schedule
  rw [hparams, hcnt] at hread
  obtain ⟨hu16, hnative16, hnative32⟩ := readResult_widths s.params s.tim.cnt
  have hrun8 : core.run 8 s = .next (respond (readResult s.params s.tim.cnt) (takeCommand ctx rest t)) := by
    calc core.run 8 s
      _ = core.run (6 + 1) (acceptOptions c a (takeCommand ctx (.host ctx (encode .read) :: rest) s)) :=
        core_run_succ haccepted 7
      _ = core.run 1 t := core_run_add hrun 1
      _ = .next (respond (readResult s.params s.tim.cnt) (takeCommand ctx rest t)) := core_run_succ hread 0
  exact ⟨_, readResult s.params s.tim.cnt, hrun8, congrArg (· ++ [Response.mk ctx _]) hresponses, rfl,
    hu16, hnative16, hnative32⟩

end Sys2Proof.Machine
end

section
/-! PROOFS. Family 60_exceptions: the counter's step within the wrap boundary and above it, and a word issued next. First
the counter's step in each of its cases; each rule of R167 to R169 then is read off one of them. -/

namespace Sys2Proof.Machine

/-! The counter's step in each of its cases (60_exceptions.md R167 to R169). -/

theorem countStep_of_disabled (dir : CountDir) {s : State} (hc : cen s = false) : countStep dir s = s := by
  simp [countStep, hc]

theorem countStep_of_within (dir : CountDir) {s : State} (hc : cen s = true)
    (hle : (countOf s).toNat ≤ (reloadOf s).toNat) :
    countStep dir s = setCount (countedValue dir (reloadOf s) (countOf s)) s := by
  simp [countStep, hc, hle]

theorem countStep_of_above (dir : CountDir) {s : State} (hc : cen s = true)
    (hlt : (reloadOf s).toNat < (countOf s).toNat) :
    countStep dir s = skipDraws 1 (setCount (Config.freeWord s.draws) s) := by
  simp [countStep, hc, hlt]

/-- The counter's step writes CNT, the draw index and nothing else (60_exceptions.md R167). -/
theorem countStep_frame (dir : CountDir) (s : State) :
    countStep dir s = { s with
      tim := { s.tim with cnt := (countStep dir s).tim.cnt }, draws := (countStep dir s).draws } := by
  obtain ⟨-, h⟩ | ⟨-, v, n, h⟩ := countStep_cases dir s <;> rw [h]
  rfl

/-! The counter field: what lies inside the mask, and what is outside it (30_encoding.md R92). -/

/-- The count and the boundary depend on the parameters and on their own register. -/
theorem countOf_congr {s t : State} (hp : t.params = s.params) (h : t.tim.cnt = s.tim.cnt) : countOf t = countOf s := by
  simp [countOf, hp, h]

theorem reloadOf_congr {s t : State} (hp : t.params = s.params) (h : t.tim.arr = s.tim.arr) :
    reloadOf t = reloadOf s := by
  simp [reloadOf, hp, h]

/-- The mask is a run of ones from bit 0, so what is not above a masked word fits the mask too. -/
theorem and_cntMask_of_le {p : Params} {v w : Word} (h : v.toNat ≤ (w &&& cntMask p).toNat) : v &&& cntMask p = v := by
  have hmask : v.toNat ≤ (cntMask p).toNat := h.trans (by rw [BitVec.toNat_and]; exact Nat.and_le_right)
  apply BitVec.eq_of_toNat_eq
  rw [BitVec.toNat_and]
  unfold cntMask at hmask ⊢
  cases hw : p.cntWidth with
  | w16 =>
    rw [hw] at hmask
    exact Nat.and_two_pow_sub_one_of_lt_two_pow (n := 16) (Nat.lt_succ_of_le hmask)
  | w32 => exact Nat.and_two_pow_sub_one_of_lt_two_pow (n := 32) v.isLt

/-- Two parts of a word put together again. -/
theorem and_not_or_and (w m : Word) : (w &&& ~~~m) ||| (w &&& m) = w := by
  rw [← BitVec.and_or_distrib_left, BitVec.not_or_self, BitVec.and_allOnes]

theorem setCount_cnt_outside (v : Word) (s : State) :
    (setCount v s).tim.cnt &&& ~~~cntMask s.params = s.tim.cnt &&& ~~~cntMask s.params := by
  simp [BitVec.and_or_distrib_right, BitVec.and_assoc]

theorem setCount_setCount (v w : Word) (s : State) : setCount v (setCount w s) = setCount v s := by
  have h := setCount_cnt_outside w s
  simp only [setCount] at h ⊢
  rw [h]

theorem setCount_countOf (s : State) : setCount (countOf s) s = s := by
  simp [setCount, countOf, BitVec.and_assoc, and_not_or_and]

/-! Counting within the boundary (60_exceptions.md R168). -/

/-- Within the boundary the count after a step is the counted value, which the field has room for. -/
theorem countOf_countStep_of_within (dir : CountDir) {s : State} (hc : cen s = true)
    (hle : (countOf s).toNat ≤ (reloadOf s).toNat) :
    countOf (countStep dir s) = countedValue dir (reloadOf s) (countOf s) := by
  rw [countStep_of_within dir hc hle, countOf_setCount]
  exact and_cntMask_of_le (countedValue_le dir hle)

@[simp] theorem reloadOf_countStep (dir : CountDir) (s : State) : reloadOf (countStep dir s) = reloadOf s := by
  rw [countStep_frame]
  rfl

@[simp] theorem cen_countStep (dir : CountDir) (s : State) : cen (countStep dir s) = cen s := by
  rw [countStep_frame]
  rfl

theorem countStep_stays_within (dir : CountDir) {s : State} (hle : (countOf s).toNat ≤ (reloadOf s).toNat) :
    (countOf (countStep dir s)).toNat ≤ (reloadOf (countStep dir s)).toNat := by
  cases hc : cen s with
  | false => rwa [countStep_of_disabled dir hc]
  | true =>
    rw [countOf_countStep_of_within dir hc hle, reloadOf_countStep]
    exact countedValue_le dir hle

/-- Down after up: from `t` through 0 back to `t`, elsewhere through the successor, which is not 0. -/
theorem countedValue_down_up {t c : Word} (h : c.toNat ≤ t.toNat) :
    countedValue .down t (countedValue .up t c) = c := by
  by_cases hc : c = t
  · simp [countedValue, hc]
  · have hsucc : c + 1 ≠ 0 := by bv_omega
    rw [countedValue, countedValue, if_neg hc, if_neg hsucc, BitVec.add_sub_cancel]

/-- Up after down: from 0 through `t` back to 0, elsewhere through the predecessor, which is below `t`. -/
theorem countedValue_up_down {t c : Word} (h : c.toNat ≤ t.toNat) :
    countedValue .up t (countedValue .down t c) = c := by
  by_cases hc : c = 0
  · simp [countedValue, hc]
  · have hpred : c - 1 ≠ t := by bv_omega
    rw [countedValue, countedValue, if_neg hc, if_neg hpred, BitVec.sub_add_cancel]

/-- A count that takes the counted value back takes the whole state back. -/
theorem countStep_undoes {dir back : CountDir} {s : State} (hc : cen s = true)
    (hle : (countOf s).toNat ≤ (reloadOf s).toNat)
    (hback : countedValue back (reloadOf s) (countedValue dir (reloadOf s) (countOf s)) = countOf s) :
    countStep back (countStep dir s) = s := by
  calc countStep back (countStep dir s)
    _ = setCount (countedValue back (reloadOf (countStep dir s)) (countOf (countStep dir s))) (countStep dir s) :=
      countStep_of_within back (by rw [cen_countStep, hc]) (countStep_stays_within dir hle)
    _ = setCount (countOf s) (countStep dir s) := by
      rw [reloadOf_countStep, countOf_countStep_of_within dir hc hle, hback]
    _ = setCount (countOf s) s := by rw [countStep_of_within dir hc hle, setCount_setCount]
    _ = s := setCount_countOf s

/-! The sequencer reaches neither CNT nor ARR (40_configure.md R120). -/

@[simp] theorem sequencerStep_cnt (s : State) : (sequencerStep s).tim.cnt = s.tim.cnt := by
  obtain ⟨-, h⟩ | ⟨k, -, -, h⟩ | ⟨k, -, -, h⟩ := sequencerStep_cases s <;> simp [h]

@[simp] theorem sequencerStep_arr (s : State) : (sequencerStep s).tim.arr = s.tim.arr := by
  obtain ⟨-, h⟩ | ⟨k, -, -, h⟩ | ⟨k, -, -, h⟩ := sequencerStep_cases s <;> simp [h]

/-! A word issued next (log 25). -/

/-- The context chosen is not the one that waits. -/
theorem isBlocked_freeContext (s : State) : isBlocked (freeContext s) s = false := by
  cases h : s.waiting with
  | none => simp [isBlocked, h]
  | some c => simp [isBlocked, freeContext, h]

/-! The statements. -/

/-- Settles O29, by the cases of a step: only the counter writes CNT, and its step stays within the boundary; nothing
writes ARR or the width. -/
theorem counterStaysWithinReload : Obligations.CounterStaysWithinReload := by
  unfold Obligations.CounterStaysWithinReload
  intro s t h hr hle
  obtain ⟨u, hparams, -, htim, -, -, -, -, hmove⟩ := step_cases h
  rw [← countOf_congr hparams (congrArg Timer.cnt htim), ← reloadOf_congr hparams (congrArg Timer.arr htim)] at hle
  obtain rfl | rfl | ⟨dir, rfl⟩ | ⟨e, rfl⟩ | ⟨m, a, -, -, rfl⟩ | ⟨-, rfl⟩ | ⟨⟨rest, hs⟩, -⟩ := hmove
  · exact hle
  · rwa [countOf_congr (sequencerStep_params u) (sequencerStep_cnt u),
      reloadOf_congr (sequencerStep_params u) (sequencerStep_arr u)]
  · exact countStep_stays_within dir hle
  · exact hle
  · exact hle
  · exact hle
  · exact absurd hs (hr rest)

/-- Settles O25: within the boundary the step is `setCount` of the counted value. -/
theorem countStepWrapsAtReload : Obligations.CountStepWrapsAtReload := by
  unfold Obligations.CountStepWrapsAtReload
  intro s dir hc hle
  refine ⟨?_, ?_, ?_⟩
  · rw [countOf_countStep_of_within dir hc hle]
    cases dir with
    | up | down => rfl
  · rw [countStep_of_within dir hc hle]
    rfl
  · rw [countStep_of_within dir hc hle]
    exact setCount_cnt_outside _ s

/-- Settles O27: a count turn is the counter's step, which is none while CEN = 0 and has the frame of `countStep_frame`. -/
theorem countTurnNeedsEnable : Obligations.CountTurnNeedsEnable := by
  unfold Obligations.CountTurnNeedsEnable
  intro s dir rest hs
  refine ⟨fun hc => ?_, fun _ => ⟨_, step_of_count hs, rfl, ?_⟩⟩
  · rw [step_of_count hs, countStep_of_disabled dir (s := takeTurn rest s) hc]
    rfl
  · rw [countStep_frame]
    exact ⟨rfl, rfl, rfl, rfl, rfl, rfl, rfl⟩

/-- Settles O28: each direction takes back the counted value of the other. -/
theorem countUpAndDownCancel : Obligations.CountUpAndDownCancel := by
  unfold Obligations.CountUpAndDownCancel
  exact fun s hc hle =>
    ⟨countStep_undoes hc hle (countedValue_down_up hle), countStep_undoes hc hle (countedValue_up_down hle)⟩

/-- Settles O9: the word is the first turn, of a context that is not blocked, and the rest of the schedule is left. -/
theorem issuedWordRunsNext : Obligations.IssuedWordRunsNext := by
  unfold Obligations.IssuedWordRunsNext
  intro s w i hd
  have hword : BitVec.ofNat 32 (w % 2 ^ 32) = BitVec.ofNat 32 w := BitVec.eq_of_toNat_eq (by simp)
  have hfree : isBlocked (freeContext s) (s.withFetchWord 32 w) = false := isBlocked_freeContext s
  rw [step_of_free_host (s := s.withFetchWord 32 w) rfl hfree, hword, hostCommand_of_command hd]
  rfl

/-- Settles O26: above the boundary the step is `setCount` of a draw, which it uses up. -/
theorem countAboveReloadIsFree : Obligations.CountAboveReloadIsFree := by
  unfold Obligations.CountAboveReloadIsFree
  exact fun s dir hc hlt => countStep_of_above dir hc hlt

end Sys2Proof.Machine
end

section
/-! PROOFS. Family 70_reset_and_hazards: what a platform reset leaves, and that a sequence in progress reaches COUNTING
under every schedule. First what one step does to a sequence in progress: it brings COUNTING nearer, in the measure
`stepsLeft`. -/

namespace Sys2Proof.Machine

/-! Progress of the sequence (70_reset_and_hazards.md R205). -/

/-- The most steps the sequence in progress can need: each turn scheduled may pass without a write step, and each write
step left takes one step of its own. -/
def stepsLeft (s : State) : Nat := s.schedule.length + (7 - s.seq.phase.code.toNat)

/-- Going from `s` to `t` no turn came to the schedule, the sequence was not given up, and COUNTING came nearer. -/
structure Progress (s t : State) : Prop where
  started : t.seq.phase ≠ .notConfigured
  schedule : t.schedule ⊆ s.schedule
  nearer : stepsLeft t < stepsLeft s

theorem ne_notConfigured_of_pending {p : Phase} {k : WriteStep} (h : p.pending = some k) : p ≠ .notConfigured := by
  rintro rfl
  cases h

theorem ne_counting_of_pending {p : Phase} {k : WriteStep} (h : p.pending = some k) : p ≠ .counting := by
  rintro rfl
  cases h

/-- A turn that leaves the phase alone is progress, for it is gone from the schedule. -/
theorem Progress.of_turn {s t : State} {k : WriteStep} {turn : Turn} (hp : s.seq.phase.pending = some k)
    (hphase : t.seq.phase = s.seq.phase) (hs : s.schedule = turn :: t.schedule) : Progress s t where
  started := hphase ▸ ne_notConfigured_of_pending hp
  schedule := hs ▸ List.subset_cons_self turn t.schedule
  nearer := by simp [stepsLeft, hphase, hs]

/-- The pending write step is progress, whether or not it uses up a turn. -/
theorem Progress.of_write {s t : State} {k : WriteStep} (hp : s.seq.phase.pending = some k)
    (hphase : t.seq.phase = k.next) (hs : t.schedule <:+ s.schedule) : Progress s t where
  started := hphase ▸ next_ne_notConfigured k
  schedule := hs.subset
  nearer := by
    have hlength := hs.length_le
    have hcode := code_next_of_pending hp
    have hlast := k.next.code.isLt
    rw [stepsLeft, stepsLeft, hphase]
    omega

theorem sequencerStep_progress {s u : State} {k : WriteStep} (hw : u.params.wellFormed = true) (hseq : u.seq = s.seq)
    (hp : s.seq.phase.pending = some k) (hs : u.schedule <:+ s.schedule) : Progress s (sequencerStep u) := by
  rw [sequencerStep_eq hw (hseq ▸ hp)]
  exact .of_write hp rfl hs

/-- In the middle of the sequence every command is refused (60_exceptions.md R163). -/
theorem hostCommand_of_pending {s : State} {k : WriteStep} (hp : s.seq.phase.pending = some k) (w : Word) :
    ∃ e, hostCommand w s = .next (refuse e s) := by
  obtain hrefused | ⟨_, _, hidle, -⟩ | ⟨hcounting, -⟩ := hostCommand_cases w s
  · exact hrefused
  · exact absurd hidle (ne_notConfigured_of_pending hp)
  · exact absurd hcounting (ne_counting_of_pending hp)

@[simp] theorem countStep_seq (dir : CountDir) (s : State) : (countStep dir s).seq = s.seq := by
  rw [countStep_frame]

@[simp] theorem countStep_schedule (dir : CountDir) (s : State) : (countStep dir s).schedule = s.schedule := by
  rw [countStep_frame]

/-- Every step in the middle of the sequence that is no platform reset is progress: the sequencer moves, or a turn goes
by. -/
theorem step_progress {s : State} {k : WriteStep} (hw : s.params.wellFormed = true)
    (hp : s.seq.phase.pending = some k) (hr : NoResetNext s) : ∃ t, step s = .next t ∧ Progress s t := by
  have hpending : s.seq.phase.pending.isSome = true := by rw [hp]; rfl
  cases hs : s.schedule with
  | nil => exact ⟨_, step_of_onlySequencerMoves (.inl hs) hpending, sequencerStep_progress hw rfl hp List.suffix_rfl⟩
  | cons turn rest =>
    cases turn with
    | host ctx w =>
      cases hb : isBlocked ctx s with
      | true => exact ⟨_, step_of_blocked_host hs hb, sequencerStep_progress hw rfl hp List.suffix_rfl⟩
      | false =>
        obtain ⟨e, hrefused⟩ := hostCommand_of_pending (s := takeCommand ctx rest s) hp w
        exact ⟨_, (step_of_free_host hs hb).trans hrefused, .of_turn hp rfl hs⟩
    | sequencer =>
      have hrest : rest <:+ s.schedule := hs ▸ List.suffix_cons _ rest
      exact ⟨_, step_of_sequencer hs, sequencerStep_progress (u := takeTurn rest s) hw rfl hp hrest⟩
    | count dir =>
      exact ⟨_, step_of_count hs, .of_turn hp (by rw [countStep_seq]; rfl) (by rw [hs, countStep_schedule]; rfl)⟩
    | platformReset => exact absurd hs (hr rest)

/-- A sequence that has begun reaches COUNTING within the steps left, by recursion on them. -/
theorem run_to_counting (s : State) (hw : s.params.wellFormed = true) (hstarted : s.seq.phase ≠ .notConfigured)
    (hr : ∀ turn ∈ s.schedule, turn ≠ .platformReset) :
    ∃ n t, n ≤ stepsLeft s ∧ core.run n s = .next t ∧ t.seq.phase = .counting := by
  by_cases hcounting : s.seq.phase = .counting
  · exact ⟨0, s, Nat.zero_le _, rfl, hcounting⟩
  · have hcode : s.seq.phase.code.toNat < 7 :=
      Nat.lt_of_le_of_ne (Nat.le_of_lt_succ s.seq.phase.code.isLt) (mt counting_of_code hcounting)
    obtain ⟨k, hp⟩ := pending_of_code hcode hstarted
    have hnext : NoResetNext s := fun rest hs => hr .platformReset (hs ▸ List.mem_cons_self) rfl
    obtain ⟨u, hu, hu_started, hu_schedule, hnearer⟩ := step_progress hw hp hnext
    obtain ⟨n, t, hn, hrun, ht⟩ := run_to_counting u (parametersNeverChange s u hu ▸ hw) hu_started
      fun turn hturn => hr turn (hu_schedule hturn)
    exact ⟨n + 1, t, by omega, (core_run_succ hu n).trans hrun, ht⟩
termination_by stepsLeft s

theorem code_pos_of_ne_notConfigured {p : Phase} (hp : p ≠ .notConfigured) : 0 < p.code.toNat := by
  cases p with
  | notConfigured => exact absurd rfl hp
  | seq1 | seq2 | seq3 | seq4 | seq5 | seq6 | counting => decide

/-! The statements. -/

/-- Settles O47: `run_to_counting`, where in the middle of the sequence at most six write steps are left. -/
theorem sequenceReachesCounting : Obligations.SequenceReachesCounting := by
  unfold Obligations.SequenceReachesCounting
  intro s hbase hpending hr
  obtain ⟨k, hp⟩ := Option.isSome_iff_exists.mp hpending
  have hstarted := ne_notConfigured_of_pending hp
  obtain ⟨n, t, hn, hrun, hcounting⟩ := run_to_counting s (params_wellFormed_iff.mpr hbase) hstarted hr
  have hbound : stepsLeft s ≤ s.schedule.length + 6 := by
    have hcode := code_pos_of_ne_notConfigured hstarted
    rw [stepsLeft]
    omega
  exact ⟨n, t, hn.trans hbound, hrun, hcounting⟩

/-- Settles O42: the turn is `platformReset`, which draws the timer and the premises. -/
theorem platformResetDrawsTheTimer : Obligations.PlatformResetDrawsTheTimer := by
  unfold Obligations.PlatformResetDrawsTheTimer
  exact fun s rest hs =>
    ⟨_, step_of_platformReset hs, rfl, rfl, rfl, rfl, rfl, rfl, rfl, rfl, rfl, rfl, rfl, rfl, rfl⟩

end Sys2Proof.Machine
end
